-- ==== Sys2Proof/Word.lean ====
section
/-! DEFINITION. The widths of the machine: bytes, 16-bit words, register numbers (00_scope R7, 10_state R10, R12). -/

namespace Sys2Proof

/-- A memory byte or a general register: 8 bits, unsigned (10_state R10, R23). -/
abbrev Byte := BitVec 8

/-- The width of `I`, of `pc`, of a call-stack slot and of an instruction (10_state R12, R13, R17; 30_encoding R46). -/
abbrev Word := BitVec 16

/-- The number of a general register, 0..15 (10_state R10); `VF` is number 15. -/
abbrev Reg := Fin 16

end Sys2Proof
end

