-- ==== Sys2Proof/Syntax.lean ====
section
/-! DEFINITION. The 34 instructions (30_encoding R52), one constructor per row of spec/opcode_table.json, named after the row.
Fields the decoder does not examine are kept (`pad` of 5xyN and 9xyN, `y` of the shifts; 30_encoding R53), so that a
word and its instruction determine each other (log 21); no meaning reads them. -/

namespace Sys2Proof

inductive Instr where
  /-- `00E0` CLS, clear display (43_display R93). -/
  | cls
  /-- `00EE` RET, return (40_control_flow R60). -/
  | ret
  /-- `1nnn` JP nnn, jump (R61). -/
  | jpNnn (nnn : BitVec 12)
  /-- `2nnn` CALL nnn, call subroutine (R62). -/
  | callNnn (nnn : BitVec 12)
  /-- `3xkk` SE Vx,kk, skip if equal (R63). -/
  | seVxKk (x : Reg) (kk : Byte)
  /-- `4xkk` SNE Vx,kk, skip if not equal (R64). -/
  | sneVxKk (x : Reg) (kk : Byte)
  /-- `5xyN` SE Vx,Vy; the low nibble is ignored (R65, 30_encoding R53). -/
  | seVxVy (x y : Reg) (pad : BitVec 4)
  /-- `6xkk` LD Vx,kk, load immediate (41_load_alu R70). -/
  | ldVxKk (x : Reg) (kk : Byte)
  /-- `7xkk` ADD Vx,kk, add immediate, no carry (R71). -/
  | addVxKk (x : Reg) (kk : Byte)
  /-- `8xy0` LD Vx,Vy, copy (R72). -/
  | ldVxVy (x y : Reg)
  /-- `8xy1` OR Vx,Vy (R73). -/
  | orVxVy (x y : Reg)
  /-- `8xy2` AND Vx,Vy (R74). -/
  | andVxVy (x y : Reg)
  /-- `8xy3` XOR Vx,Vy (R75). -/
  | xorVxVy (x y : Reg)
  /-- `8xy4` ADD Vx,Vy, carry out to VF (R76). -/
  | addVxVy (x y : Reg)
  /-- `8xy5` SUB Vx,Vy, not-borrow to VF (R77). -/
  | subVxVy (x y : Reg)
  /-- `8xy6` SHR Vx; `y` is encoded and ignored (R78). -/
  | shrVx (x y : Reg)
  /-- `8xy7` SUBN Vx,Vy, reverse subtract (R79). -/
  | subnVxVy (x y : Reg)
  /-- `8xyE` SHL Vx; `y` is encoded and ignored (R80). -/
  | shlVx (x y : Reg)
  /-- `9xyN` SNE Vx,Vy; the low nibble is ignored (40_control_flow R66, 30_encoding R53). -/
  | sneVxVy (x y : Reg) (pad : BitVec 4)
  /-- `Annn` LD I,nnn (42_index_memory R85). -/
  | ldINnn (nnn : BitVec 12)
  /-- `Bnnn` JP V0,nnn, jump with offset (40_control_flow R67). -/
  | jpV0Nnn (nnn : BitVec 12)
  /-- `Cxkk` RND Vx,kk, random and mask (41_load_alu R81). -/
  | rndVxKk (x : Reg) (kk : Byte)
  /-- `Dxyn` DRW Vx,Vy,n, draw sprite of `n` rows (43_display R94). -/
  | drwVxVyN (x y : Reg) (n : Nat)
  /-- `Ex9E` SKP Vx, skip if key pressed (44_keypad_timers R100). -/
  | skpVx (x : Reg)
  /-- `ExA1` SKNP Vx, skip if key not pressed (R101). -/
  | sknpVx (x : Reg)
  /-- `Fx07` LD Vx,DT, read the delay timer (R103). -/
  | ldVxDT (x : Reg)
  /-- `Fx0A` LD Vx,K, blocking key wait (R102). -/
  | ldVxK (x : Reg)
  /-- `Fx15` LD DT,Vx, set the delay timer (R104). -/
  | ldDTVx (x : Reg)
  /-- `Fx18` LD ST,Vx, set the sound timer (R105). -/
  | ldSTVx (x : Reg)
  /-- `Fx1E` ADD I,Vx, index add (42_index_memory R86). -/
  | addIVx (x : Reg)
  /-- `Fx29` LD F,Vx, font-address lookup (R87). -/
  | ldFVx (x : Reg)
  /-- `Fx33` LD B,Vx, BCD decomposition (R88). -/
  | ldBVx (x : Reg)
  /-- `Fx55` LD [I],Vx, bulk register store (R89). -/
  | ldMemIVx (x : Reg)
  /-- `Fx65` LD Vx,[I], bulk register load (R90). -/
  | ldVxMemI (x : Reg)
  deriving DecidableEq, Repr

end Sys2Proof
end

