-- ==== Sys2Proof/WellFormed.lean ====
section
/-! DEFINITION. Which terms of `Instr` are instructions of the machine. -/

namespace Sys2Proof

/-- The one operand whose type does not bound it is the row count of `DRW`: "`n` in `DRW` is a row count 0..15"
(30_encoding R49). Every value of every other operand is legal ("every value 0..15 is a valid selector, 15 (`VF`)
included"; the literals fill their fields). -/
def Instr.wellFormed : Instr → Bool
  | .drwVxVyN _ _ n => n ≤ 15
  | .cls => true
  | .ret => true
  | .jpNnn _ => true
  | .callNnn _ => true
  | .seVxKk _ _ => true
  | .sneVxKk _ _ => true
  | .seVxVy _ _ _ => true
  | .ldVxKk _ _ => true
  | .addVxKk _ _ => true
  | .ldVxVy _ _ => true
  | .orVxVy _ _ => true
  | .andVxVy _ _ => true
  | .xorVxVy _ _ => true
  | .addVxVy _ _ => true
  | .subVxVy _ _ => true
  | .shrVx _ _ => true
  | .subnVxVy _ _ => true
  | .shlVx _ _ => true
  | .sneVxVy _ _ _ => true
  | .ldINnn _ => true
  | .jpV0Nnn _ => true
  | .rndVxKk _ _ => true
  | .skpVx _ => true
  | .sknpVx _ => true
  | .ldVxDT _ => true
  | .ldVxK _ => true
  | .ldDTVx _ => true
  | .ldSTVx _ => true
  | .addIVx _ => true
  | .ldFVx _ => true
  | .ldBVx _ => true
  | .ldMemIVx _ => true
  | .ldVxMemI _ => true

end Sys2Proof
end

