-- ==== Sys2Proof/Decode.lean ====
section
/-! DEFINITION. The decoder (30_encoding R47, R50 to R54, R59) and the encoder (R48, R52). The bit patterns are the
spec's own (R52, D9; log 10), the strictness of decoding follows R51 and R53 (D10; log 11). -/

namespace Sys2Proof

/-- Why a word is no instruction, by the class that rejects it (30_encoding R51, R54); `truncated` is for a byte
sequence shorter than one instruction, which a fetch never gives. All rejections act alike (R55). -/
inductive Reject where
  /-- class 0, neither `0x00E0` nor `0x00EE` -/
  | systemWord
  /-- class 8, low nibble 8, 9, A, B, C, D or F -/
  | aluNibble
  /-- class E, low byte neither `0x9E` nor `0xA1` -/
  | keyByte
  /-- class F, low byte not one of the nine -/
  | miscByte
  /-- fewer than two bytes -/
  | truncated
  deriving DecidableEq, Repr

/-- `class = op[15:12]` (30_encoding R47). -/
def opClass (op : Word) : Nat := (op.extractLsb' 12 4).toNat

/-- `x = op[11:8]` (R47). -/
def opX (op : Word) : Reg := (op.extractLsb' 8 4).toFin

/-- `y = op[7:4]` (R47). -/
def opY (op : Word) : Reg := (op.extractLsb' 4 4).toFin

/-- `n = op[3:0]` (R47). -/
def opN (op : Word) : BitVec 4 := op.extractLsb' 0 4

/-- `kk = op[7:0]` (R47). -/
def opKK (op : Word) : Byte := op.extractLsb' 0 8

/-- `nnn = op[11:0]` (R47). -/
def opNNN (op : Word) : BitVec 12 := op.extractLsb' 0 12

/-- Class 0: the whole word is compared (R51). -/
def decodeSystem (op : Word) : Except Reject Instr :=
  if op = 0x00E0#16 then .ok .cls
  else if op = 0x00EE#16 then .ok .ret
  else .error .systemWord

/-- Class 8: dispatch on the low nibble (R51). -/
def decodeAlu (op : Word) : Except Reject Instr :=
  match (opN op).toNat with
  | 0x0 => .ok (.ldVxVy (opX op) (opY op))
  | 0x1 => .ok (.orVxVy (opX op) (opY op))
  | 0x2 => .ok (.andVxVy (opX op) (opY op))
  | 0x3 => .ok (.xorVxVy (opX op) (opY op))
  | 0x4 => .ok (.addVxVy (opX op) (opY op))
  | 0x5 => .ok (.subVxVy (opX op) (opY op))
  | 0x6 => .ok (.shrVx (opX op) (opY op))
  | 0x7 => .ok (.subnVxVy (opX op) (opY op))
  | 0xE => .ok (.shlVx (opX op) (opY op))
  | _ => .error .aluNibble

/-- Class E: dispatch on the low byte (R51). -/
def decodeKey (op : Word) : Except Reject Instr :=
  match (opKK op).toNat with
  | 0x9E => .ok (.skpVx (opX op))
  | 0xA1 => .ok (.sknpVx (opX op))
  | _ => .error .keyByte

/-- Class F: dispatch on the low byte (R51). -/
def decodeMisc (op : Word) : Except Reject Instr :=
  match (opKK op).toNat with
  | 0x07 => .ok (.ldVxDT (opX op))
  | 0x0A => .ok (.ldVxK (opX op))
  | 0x15 => .ok (.ldDTVx (opX op))
  | 0x18 => .ok (.ldSTVx (opX op))
  | 0x1E => .ok (.addIVx (opX op))
  | 0x29 => .ok (.ldFVx (opX op))
  | 0x33 => .ok (.ldBVx (opX op))
  | 0x55 => .ok (.ldMemIVx (opX op))
  | 0x65 => .ok (.ldVxMemI (opX op))
  | _ => .error .miscByte

/-- `Decode(op)`: primary dispatch on the class alone (R50), secondary dispatch for the classes 0, 8, E and F (R51).
Total (R59). The last line is class F, the one class left. -/
def decode (op : Word) : Except Reject Instr :=
  match opClass op with
  | 0x0 => decodeSystem op
  | 0x1 => .ok (.jpNnn (opNNN op))
  | 0x2 => .ok (.callNnn (opNNN op))
  | 0x3 => .ok (.seVxKk (opX op) (opKK op))
  | 0x4 => .ok (.sneVxKk (opX op) (opKK op))
  | 0x5 => .ok (.seVxVy (opX op) (opY op) (opN op))
  | 0x6 => .ok (.ldVxKk (opX op) (opKK op))
  | 0x7 => .ok (.addVxKk (opX op) (opKK op))
  | 0x8 => decodeAlu op
  | 0x9 => .ok (.sneVxVy (opX op) (opY op) (opN op))
  | 0xA => .ok (.ldINnn (opNNN op))
  | 0xB => .ok (.jpV0Nnn (opNNN op))
  | 0xC => .ok (.rndVxKk (opX op) (opKK op))
  | 0xD => .ok (.drwVxVyN (opX op) (opY op) (opN op).toNat)
  | 0xE => decodeKey op
  | _ => decodeMisc op

/-- Two bytes in memory order make one word, the first byte high (20_memory R34). -/
def wordOfBytes (hi lo : Byte) : Word := BitVec.ofNat 16 (hi.toNat * 256 + lo.toNat)

/-- The byte of a word at the lower address (20_memory R34). -/
def highByte (op : Word) : Byte := op.extractLsb' 8 8

/-- The byte of a word at the higher address (20_memory R34). -/
def lowByte (op : Word) : Byte := op.extractLsb' 0 8

/-- The decoder on a byte sequence: one instruction and the bytes after it (30_encoding R46: every instruction is
exactly 2 bytes). -/
def decodeBytes : List Byte → Except Reject (Instr × List Byte)
  | hi :: lo :: rest =>
    match decode (wordOfBytes hi lo) with
    | .ok i => .ok (i, rest)
    | .error e => .error e
  | [_] => .error .truncated
  | [] => .error .truncated

/-- The instruction the decoder reads from the table's word `w` of `nbits` bits (every bit above them 0), laid out high
byte first (log 22). -/
def decodeTableWord (nbits w : Nat) : Option Instr :=
  let op : Word := BitVec.ofNat 16 (w % 2 ^ nbits)
  match decodeBytes [highByte op, lowByte op] with
  | .ok (i, _) => some i
  | .error _ => none

/-! The encoder, from the layouts of R48. -/

/-- Format A: class, nnn. -/
def encodeA (cls : Nat) (nnn : BitVec 12) : Word := BitVec.ofNat 16 (cls * 4096 + nnn.toNat)

/-- Format XK (and XS, whose low byte is the secondary opcode): class, x, kk. -/
def encodeXK (cls : Nat) (x : Reg) (kk : Byte) : Word := BitVec.ofNat 16 (cls * 4096 + x.val * 256 + kk.toNat)

/-- Formats XY and XYN: class, x, y, low nibble (a secondary opcode, an ignored nibble or a row count). -/
def encodeXY (cls : Nat) (x y : Reg) (n : BitVec 4) : Word :=
  BitVec.ofNat 16 (cls * 4096 + x.val * 256 + y.val * 16 + n.toNat)

/-- The word of an instruction (30_encoding R48, R52). -/
def encode : Instr → Word
  | .cls => 0x00E0#16
  | .ret => 0x00EE#16
  | .jpNnn nnn => encodeA 0x1 nnn
  | .callNnn nnn => encodeA 0x2 nnn
  | .seVxKk x kk => encodeXK 0x3 x kk
  | .sneVxKk x kk => encodeXK 0x4 x kk
  | .seVxVy x y pad => encodeXY 0x5 x y pad
  | .ldVxKk x kk => encodeXK 0x6 x kk
  | .addVxKk x kk => encodeXK 0x7 x kk
  | .ldVxVy x y => encodeXY 0x8 x y 0x0
  | .orVxVy x y => encodeXY 0x8 x y 0x1
  | .andVxVy x y => encodeXY 0x8 x y 0x2
  | .xorVxVy x y => encodeXY 0x8 x y 0x3
  | .addVxVy x y => encodeXY 0x8 x y 0x4
  | .subVxVy x y => encodeXY 0x8 x y 0x5
  | .shrVx x y => encodeXY 0x8 x y 0x6
  | .subnVxVy x y => encodeXY 0x8 x y 0x7
  | .shlVx x y => encodeXY 0x8 x y 0xE
  | .sneVxVy x y pad => encodeXY 0x9 x y pad
  | .ldINnn nnn => encodeA 0xA nnn
  | .jpV0Nnn nnn => encodeA 0xB nnn
  | .rndVxKk x kk => encodeXK 0xC x kk
  | .drwVxVyN x y n => encodeXY 0xD x y (BitVec.ofNat 4 n)
  | .skpVx x => encodeXK 0xE x 0x9E
  | .sknpVx x => encodeXK 0xE x 0xA1
  | .ldVxDT x => encodeXK 0xF x 0x07
  | .ldVxK x => encodeXK 0xF x 0x0A
  | .ldDTVx x => encodeXK 0xF x 0x15
  | .ldSTVx x => encodeXK 0xF x 0x18
  | .addIVx x => encodeXK 0xF x 0x1E
  | .ldFVx x => encodeXK 0xF x 0x29
  | .ldBVx x => encodeXK 0xF x 0x33
  | .ldMemIVx x => encodeXK 0xF x 0x55
  | .ldVxMemI x => encodeXK 0xF x 0x65

/-! The opcode table as data: mask and pattern of the row of each instruction (30_encoding R52, columns "mask" and
"match"), written apart from the decoder so that the two can be compared. -/

/-- One row: "the word `op` selects the instruction exactly when `op & mask = match`" (30_encoding R52). -/
structure Row where
  mask : Word
  pattern : Word
  deriving DecidableEq, Repr

def Row.selects (r : Row) (op : Word) : Bool := op &&& r.mask == r.pattern

/-- The row of each instruction (30_encoding R52). -/
def rowOf : Instr → Row
  | .cls => ⟨0xFFFF, 0x00E0⟩
  | .ret => ⟨0xFFFF, 0x00EE⟩
  | .jpNnn _ => ⟨0xF000, 0x1000⟩
  | .callNnn _ => ⟨0xF000, 0x2000⟩
  | .seVxKk _ _ => ⟨0xF000, 0x3000⟩
  | .sneVxKk _ _ => ⟨0xF000, 0x4000⟩
  | .seVxVy _ _ _ => ⟨0xF000, 0x5000⟩
  | .ldVxKk _ _ => ⟨0xF000, 0x6000⟩
  | .addVxKk _ _ => ⟨0xF000, 0x7000⟩
  | .ldVxVy _ _ => ⟨0xF00F, 0x8000⟩
  | .orVxVy _ _ => ⟨0xF00F, 0x8001⟩
  | .andVxVy _ _ => ⟨0xF00F, 0x8002⟩
  | .xorVxVy _ _ => ⟨0xF00F, 0x8003⟩
  | .addVxVy _ _ => ⟨0xF00F, 0x8004⟩
  | .subVxVy _ _ => ⟨0xF00F, 0x8005⟩
  | .shrVx _ _ => ⟨0xF00F, 0x8006⟩
  | .subnVxVy _ _ => ⟨0xF00F, 0x8007⟩
  | .shlVx _ _ => ⟨0xF00F, 0x800E⟩
  | .sneVxVy _ _ _ => ⟨0xF000, 0x9000⟩
  | .ldINnn _ => ⟨0xF000, 0xA000⟩
  | .jpV0Nnn _ => ⟨0xF000, 0xB000⟩
  | .rndVxKk _ _ => ⟨0xF000, 0xC000⟩
  | .drwVxVyN _ _ _ => ⟨0xF000, 0xD000⟩
  | .skpVx _ => ⟨0xF0FF, 0xE09E⟩
  | .sknpVx _ => ⟨0xF0FF, 0xE0A1⟩
  | .ldVxDT _ => ⟨0xF0FF, 0xF007⟩
  | .ldVxK _ => ⟨0xF0FF, 0xF00A⟩
  | .ldDTVx _ => ⟨0xF0FF, 0xF015⟩
  | .ldSTVx _ => ⟨0xF0FF, 0xF018⟩
  | .addIVx _ => ⟨0xF0FF, 0xF01E⟩
  | .ldFVx _ => ⟨0xF0FF, 0xF029⟩
  | .ldBVx _ => ⟨0xF0FF, 0xF033⟩
  | .ldMemIVx _ => ⟨0xF0FF, 0xF055⟩
  | .ldVxMemI _ => ⟨0xF0FF, 0xF065⟩

/-- The 34 rows of the table in the table's order (30_encoding R52). -/
def opcodeRows : List Row :=
  [⟨0xFFFF, 0x00E0⟩, ⟨0xFFFF, 0x00EE⟩, ⟨0xF000, 0x1000⟩, ⟨0xF000, 0x2000⟩, ⟨0xF000, 0x3000⟩, ⟨0xF000, 0x4000⟩,
   ⟨0xF000, 0x5000⟩, ⟨0xF000, 0x6000⟩, ⟨0xF000, 0x7000⟩] ++
  [⟨0xF00F, 0x8000⟩, ⟨0xF00F, 0x8001⟩, ⟨0xF00F, 0x8002⟩, ⟨0xF00F, 0x8003⟩, ⟨0xF00F, 0x8004⟩, ⟨0xF00F, 0x8005⟩,
   ⟨0xF00F, 0x8006⟩, ⟨0xF00F, 0x8007⟩, ⟨0xF00F, 0x800E⟩] ++
  [⟨0xF000, 0x9000⟩, ⟨0xF000, 0xA000⟩, ⟨0xF000, 0xB000⟩, ⟨0xF000, 0xC000⟩, ⟨0xF000, 0xD000⟩, ⟨0xF0FF, 0xE09E⟩,
   ⟨0xF0FF, 0xE0A1⟩] ++
  [⟨0xF0FF, 0xF007⟩, ⟨0xF0FF, 0xF00A⟩, ⟨0xF0FF, 0xF015⟩, ⟨0xF0FF, 0xF018⟩, ⟨0xF0FF, 0xF01E⟩, ⟨0xF0FF, 0xF029⟩,
   ⟨0xF0FF, 0xF033⟩, ⟨0xF0FF, 0xF055⟩, ⟨0xF0FF, 0xF065⟩]

end Sys2Proof
end

