-- ==== Sys2Proof/Config.lean ====
section
/-! DEFINITION. The parameters of 00_scope R5 and R6, and the free values (no body, so nothing can be proved of their value).
The default of the parameter `FONT` stands in Machine/Font.lean. -/

namespace Sys2Proof

/-- `MEM_SIZE` (00_scope R5). -/
abbrev Config.memSize : Nat := 4096

/-- `PROG_ORIGIN`: where `Load` copies a program, and the entry point (00_scope R5, 70_reset_and_hazards R142). -/
abbrev Config.progOrigin : Nat := 0x200

/-- `FONT_BASE` (00_scope R5). -/
abbrev Config.fontBase : Nat := 0x50

/-- `LOAD_CAPACITY = MEM_SIZE - PROG_ORIGIN = 3584` (00_scope R5). -/
abbrev Config.loadCapacity : Nat := 3584

/-- `DISPLAY_W` (00_scope R5). -/
abbrev Config.displayWidth : Nat := 64

/-- `DISPLAY_H` (00_scope R5). -/
abbrev Config.displayHeight : Nat := 32

/-- `TIMER_PERIOD_MS = 1000/60` milliseconds, an exact rational (00_scope R5, 60_exceptions R122). -/
def Config.timerPeriod : Rat := 1000 / 60

/-- The byte of the k-th draw of `RND`: "any value 0..255, a fresh free input at each execution" (41_load_alu R81).
A FREE VALUE (log 2): applied to the counter `State.draws`, which every draw advances. -/
opaque Config.freeByte : Nat → Byte

/-- `STEPS_PER_TICK` less one: the parameter is a positive integer and otherwise open (00_scope R6, D23; log 3). -/
opaque Config.stepsPerTickLessOne : Nat

/-- `STEPS_PER_TICK`, a positive integer with no known value (00_scope R6, D23; log 3). -/
def Config.stepsPerTick : PNat := ⟨Config.stepsPerTickLessOne + 1, Nat.succ_pos _⟩

/-- The parameter `FONT`: 80 bytes, sixteen glyphs of five (00_scope R5, R6). -/
abbrev Font := Vector Byte 80

/-- The two parameters the model takes as arguments (00_scope R6). -/
structure Params where
  /-- `FONT` -/
  font : Font
  /-- `STEPS_PER_TICK`, "a positive integer" (D23) -/
  stepsPerTick : PNat
  deriving DecidableEq, Repr

end Sys2Proof
end

