-- ==== Sys2Proof/Machine/Font.lean ====
section
/-! DEFINITION. The default of the parameter `FONT` (10_state R24, D8; log 4), and what an address that memory does not
list reads as (R28; log 5). -/

namespace Sys2Proof

/-- The sixteen glyphs of five bytes of the default (10_state R24). -/
def Config.fontBytes : List Byte :=
  [0xF0, 0x90, 0x90, 0x90, 0xF0] ++ [0x20, 0x60, 0x20, 0x20, 0x70] ++ [0xF0, 0x10, 0xF0, 0x80, 0xF0] ++
  [0xF0, 0x10, 0xF0, 0x10, 0xF0] ++ [0x90, 0x90, 0xF0, 0x10, 0x10] ++ [0xF0, 0x80, 0xF0, 0x10, 0xF0] ++
  [0xF0, 0x80, 0xF0, 0x90, 0xF0] ++ [0xF0, 0x10, 0x20, 0x40, 0x40] ++ [0xF0, 0x90, 0xF0, 0x90, 0xF0] ++
  [0xF0, 0x90, 0xF0, 0x10, 0xF0] ++ [0xF0, 0x90, 0xF0, 0x90, 0x90] ++ [0xE0, 0x90, 0xE0, 0x90, 0xE0] ++
  [0xF0, 0x80, 0x80, 0x80, 0xF0] ++ [0xE0, 0x90, 0x90, 0x90, 0xE0] ++ [0xF0, 0x80, 0xF0, 0x80, 0xF0] ++
  [0xF0, 0x80, 0xF0, 0x80, 0x80]

/-- The default of the parameter `FONT` (00_scope R6, D8). -/
def Config.font : Font := ⟨⟨Config.fontBytes⟩, rfl⟩

/-- The parameters of the machine as `core` has it: the default font, and an open number of steps (log 3, log 4). -/
def Config.params : Params := ⟨Config.font, Config.stepsPerTick⟩

namespace Machine

/-- What memory holds after `Reset` with the default font: the font at 0x50..0x9F, zero elsewhere (10_state R28). An
address that memory does not list reads as this, whatever `FONT` is (log 5): the bytes of another font are listed. -/
def resetByte (a : Nat) : Byte :=
  if 0x50 ≤ a ∧ a < 0xA0 then Config.fontBytes.getD (a - 0x50) 0 else 0

end Machine

end Sys2Proof
end

