-- ==== Sys2Proof/Machine/State.lean ====
section
/-! DEFINITION. The state of the core (10_state, the table at its head), its outcomes, and the state after reset. -/

namespace Sys2Proof.Machine

/-- The main memory: the cells that differ from the reset contents (log 5). -/
abbrev Memory := List Host.Cell

/-- The 2048 pixels: `display[k]` is bit `k` (10_state R18; log 23). -/
abbrev Display := BitVec 2048

/-- A diagnostic record (60_exceptions R115; the context fields are the spec's own choice, D24). -/
inductive Diag where
  /-- (a) the word and the address it was fetched from (R111) -/
  | decodeError (op pc : Word)
  /-- (b) the address of the `RET` (R112) -/
  | stackUnderflow (pc : Word)
  /-- (c) the address of the `CALL` and its target (R113) -/
  | stackOverflow (pc : Word) (nnn : BitVec 12)
  /-- (d) the size offered and the capacity (R114) -/
  | loadTruncation (size capacity : Nat)
  deriving DecidableEq, Repr

/-- Faults: none. "No error in this core is fatal" (60_exceptions R110), nothing traps (R119), no access fails because
of its address (20_memory R32). -/
inductive Fault where
  deriving DecidableEq, Repr

/-- Refusals. A step of the machine raises none of them but `notModelled`, which no arm of `exec` raises any more. -/
inductive Refusal where
  /-- an instruction that has no meaning yet; raised by an arm of `exec` only; safe (the run stops) -/
  | notModelled (mnemonic : String)
  /-- raised by the host operations `advance`, `tickWith` and `tick` on a negative elapsed time, to which the spec gives
  no meaning (60_exceptions R122, D22, U16; log 16); safe (the call has no result) -/
  | negativeElapsedTime
  /-- raised by the host operation `load` on a negative size (70_reset_and_hazards R137, D32, U16; log 17); safe -/
  | negativeLoadSize
  /-- raised by the host operation `load` when `bytes` holds fewer than `size` bytes (R137, D32, U16; log 17); safe -/
  | loadSizeBeyondBuffer
  deriving DecidableEq, Repr

/-- The whole state of the core (10_state), and one field of the model's own, `draws`. -/
structure State where
  /-- `V[0..15]`; `V[15]` is `VF` (10_state R10, R11) -/
  V : Vector Byte 16
  /-- the index register (R12) -/
  I : Word
  /-- the program counter (R13 to R16) -/
  pc : Word
  /-- the 16 slots of the call stack (R17) -/
  stack : Vector Word 16
  /-- the number of return addresses held, 0..16 (R17) -/
  sp : Fin 17
  /-- the display (R18) -/
  display : Display
  /-- the key latch: bit `k` is `key[k]` (R19) -/
  key : BitVec 16
  /-- the delay timer (R20) -/
  DT : Byte
  /-- the sound timer (R21) -/
  ST : Byte
  /-- the timer accumulator, in milliseconds (R22) -/
  acc : Rat
  /-- the main memory (R23, R24) -/
  mem : Memory
  /-- the diagnostic output, oldest record first (R26) -/
  diag : List Diag
  /-- the model's own: how many random bytes have been drawn (log 2) -/
  draws : Nat
  deriving DecidableEq, Repr

/-- The state after the first `Reset` with the default `FONT` (10_state R28, 70_reset_and_hazards R135; for another font
see `resetOp`): memory lists nothing, for an unlisted
address reads as the reset contents. The empty diagnostic output is log 9, `draws = 0` is log 2. -/
def State.reset : State where
  V := Vector.replicate 16 0
  I := 0
  pc := 0x0200
  stack := Vector.replicate 16 0
  sp := 0
  display := 0
  key := 0
  DT := 0
  ST := 0
  acc := 0
  mem := []
  diag := []
  draws := 0

/-! One update per field. -/

def State.setV (x : Vector Byte 16) (s : State) : State := { s with V := x }
def State.setI (x : Word) (s : State) : State := { s with I := x }
def State.setPc (x : Word) (s : State) : State := { s with pc := x }
def State.setStack (x : Vector Word 16) (s : State) : State := { s with stack := x }
def State.setSp (x : Fin 17) (s : State) : State := { s with sp := x }
def State.setDisplay (x : Display) (s : State) : State := { s with display := x }
def State.setKey (x : BitVec 16) (s : State) : State := { s with key := x }
def State.setDT (x : Byte) (s : State) : State := { s with DT := x }
def State.setST (x : Byte) (s : State) : State := { s with ST := x }
def State.setAcc (x : Rat) (s : State) : State := { s with acc := x }
def State.setMem (x : Memory) (s : State) : State := { s with mem := x }
def State.setDiag (x : List Diag) (s : State) : State := { s with diag := x }
def State.setDraws (x : Nat) (s : State) : State := { s with draws := x }

/-- The answer of every meaning and of every host operation. -/
abbrev Answer := Host.Outcome State Fault Refusal

end Sys2Proof.Machine
end

