-- ==== Sys2Proof/Machine/Ops.lean ====
section
/-! DEFINITION. The shared operations: memory and fetch (20_memory), registers (10_state R10), the program counter
(R14, R16), the call stack (R17), the display (R18), the key latch (R19), and the report of an error (60_exceptions
R110), which is what this hardware has in the place of taking an exception. -/

namespace Sys2Proof.Machine

/-! ## Memory -/

/-- `A12(a) = a mod 4096`, the address every access uses (20_memory R32, D2; log 6). -/
def a12 (a : Nat) : Nat := a % Config.memSize

/-- The byte at an address below 4096. -/
def Memory.lookup : Memory → Nat → Byte
  | [], a => resetByte a
  | (k, b) :: m, a => if a = k then b else Memory.lookup m a

/-- A cell put in front, unless it holds what an unlisted address reads as. -/
def Memory.cons (a : Nat) (b : Byte) (m : Memory) : Memory :=
  if b = resetByte a then m else (a, b) :: m

/-- A byte stored at an address below 4096; the list stays sorted and without a cell that holds the reset contents. -/
def Memory.store : Memory → Nat → Byte → Memory
  | [], a, b => Memory.cons a b []
  | (k, c) :: m, a, b =>
    if a < k then Memory.cons a b ((k, c) :: m)
    else if a = k then Memory.cons a b m
    else (k, c) :: Memory.store m a b

/-- The canonical form from address `lo` up: strictly rising addresses below 4096, no cell that holds the reset
contents. -/
def Memory.wfFrom (lo : Nat) : Memory → Bool
  | [] => true
  | (a, b) :: m => decide (lo ≤ a) && decide (a < Config.memSize) && (b != resetByte a) && Memory.wfFrom (a + 1) m

/-- The canonical form of a memory; equal memories are equal lists. -/
def Memory.wf (m : Memory) : Bool := Memory.wfFrom 0 m

/-- `MemRead(a, 1)` (00_scope R8, 20_memory R33). -/
def memRead (m : Memory) (a : Nat) : Byte := Memory.lookup m (a12 a)

/-- `MemWrite(a, 1, b)` (00_scope R8, 20_memory R33). -/
def memWrite (m : Memory) (a : Nat) (b : Byte) : Memory := Memory.store m (a12 a) b

/-- Bytes stored at ascending addresses, each wrapped on its own (20_memory R33). -/
def storeBytes (m : Memory) (a : Nat) : List Byte → Memory
  | [] => m
  | b :: bs => storeBytes (memWrite m a b) (a + 1) bs

/-- `n` bytes read at ascending addresses, each wrapped on its own (20_memory R33). -/
def loadBytes (m : Memory) (a n : Nat) : List Byte := (List.range n).map fun k => memRead m (a + k)

/-- `Fetch16(a)`: the byte at `A12(a)` high, the byte at `A12(a + 1)` low (20_memory R35). -/
def fetch16 (m : Memory) (a : Word) : Word := wordOfBytes (memRead m a.toNat) (memRead m (a.toNat + 1))

/-! ## General registers -/

def State.readV (s : State) (r : Reg) : Byte := s.V.get r

def State.writeV (r : Reg) (b : Byte) (s : State) : State := s.setV (s.V.set r.val b r.isLt)

/-- `VF`, register 15 (10_state R11). -/
def regF : Reg := 15

/-- The result to `V[x]`, then the flag to `VF` (41_load_alu R83, D14; log 12). -/
def State.writeWithFlag (x : Reg) (result flag : Byte) (s : State) : State :=
  (s.writeV x result).writeV regF flag

/-! ## Program counter -/

/-- `pc <- pc + 2`, modulo 65536 (10_state R14, R16). -/
def State.nextInstr (s : State) : State := s.setPc (s.pc + 2)

/-- `pc <- pc + 4` if the condition holds, `pc + 2` otherwise (40_control_flow R63, R68). -/
def State.skipIf (c : Bool) (s : State) : State := s.setPc (if c then s.pc + 4 else s.pc + 2)

/-! ## Call stack -/

/-- `stack[sp] <- a; sp <- sp + 1` on a stack that is not full (40_control_flow R62). -/
def State.push (a : Word) (s : State) (h : s.sp.val < 16) : State :=
  (s.setStack (s.stack.set s.sp.val a h)).setSp ⟨s.sp.val + 1, by omega⟩

/-- The return address on top of a stack that is not empty (40_control_flow R60). -/
def State.top (s : State) (_h : s.sp.val ≠ 0) : Word := s.stack.get ⟨s.sp.val - 1, by omega⟩

/-- `sp <- sp - 1`; the slot keeps its bits (40_control_flow R60). -/
def State.drop (s : State) : State := s.setSp ⟨s.sp.val - 1, by omega⟩

/-! ## Display and keys -/

/-- `pixel(px, py)` is `display[py * 64 + px]` (10_state R18). -/
def pixelIndex (px py : Nat) : Nat := py * Config.displayWidth + px

/-- The pixel in column `px`, row `py`. -/
def pixel (d : Display) (px py : Nat) : Bool := d.getLsbD (pixelIndex px py)

/-- The pixel in column `px`, row `py`, exclusive-ored with a bit (43_display R94). -/
def xorPixel (d : Display) (px py : Nat) (bit : Bool) : Display :=
  d ^^^ (if bit then BitVec.twoPow 2048 (pixelIndex px py) else 0)

/-- `key[k]` (10_state R19). -/
def keyDown (key : BitVec 16) (k : Nat) : Bool := key.getLsbD k

/-! ## Errors -/

/-- `report`: one record appended to the diagnostic output, nothing else (60_exceptions R110). -/
def State.report (d : Diag) (s : State) : State := s.setDiag (s.diag ++ [d])

/-- What every executor error does: "advance `pc` by 2", nothing saved, no mode changed, control nowhere special
(60_exceptions R110, R119). -/
def State.reportAndSkip (d : Diag) (s : State) : State := (s.report d).nextInstr

/-- The decode error of the word `op` (30_encoding R54, 60_exceptions R111). -/
def decodeErrorStep (op : Word) (s : State) : Answer := .next (s.reportAndSkip (.decodeError op s.pc))

end Sys2Proof.Machine
end

