-- ==== Sys2Proof/Machine/Operands.lean ====
section
/-! DEFINITION. The operand forms: literals (30_encoding R49), the low nibble of a register as a digit or a key number
(42_index_memory R87, 44_keypad_timers R106), the one addressing mode (42_index_memory R91), BCD digits (R88), the
register range of the bulk transfers (R89, R90), the captured key (44_keypad_timers R102). -/

namespace Sys2Proof.Machine

/-- `zext_16(nnn)` (30_encoding R49). -/
def zextAddr (nnn : BitVec 12) : Word := nnn.setWidth 16

/-- `zext_16(V[x])` (30_encoding R49, 42_index_memory R86). -/
def zextByte (b : Byte) : Word := b.setWidth 16

/-- `v[3:0]`, the low four bits of a register (D16, D17; log 13 and 14). -/
def lowNibble (b : Byte) : Nat := b.toNat % 16

/-- `0x0050 + 5 * d`, the address of the glyph of the digit in a register (42_index_memory R87). -/
def glyphAddr (b : Byte) : Word := BitVec.ofNat 16 (Config.fontBase + 5 * lowNibble b)

/-- `I + k`, formed without loss; the access wraps it (20_memory R32, 42_index_memory R91). -/
def dataAddr (s : State) (k : Nat) : Nat := s.I.toNat + k

/-- Hundreds, tens and ones of a register (42_index_memory R88). -/
def bcdDigits (b : Byte) : List Byte :=
  [BitVec.ofNat 8 (b.toNat / 100), BitVec.ofNat 8 (b.toNat / 10 % 10), BitVec.ofNat 8 (b.toNat % 10)]

/-- `V[0], V[1], ..., V[x]`, in ascending register order (42_index_memory R89). -/
def regsThrough (s : State) (x : Reg) : List Byte := s.V.toList.take (x.val + 1)

/-- The least `k` in 0..15 with `key[k] = 1`, if a key is down (44_keypad_timers R102, D18; log 14). -/
def lowestKey (key : BitVec 16) : Option Nat := (List.range 16).find? (keyDown key)

end Sys2Proof.Machine
end

