-- ==== Sys2Proof/Machine/Control.lean ====
section
/-! DEFINITION. Control transfer (40_control_flow). -/

namespace Sys2Proof.Machine

/-- RET (40_control_flow R60). -/
def execRet (s : State) : Answer :=
  if h : s.sp.val = 0 then .next (s.reportAndSkip (.stackUnderflow s.pc))
  else .next (s.drop.setPc (s.top h))

/-- JP nnn (R61). -/
def execJpNnn (nnn : BitVec 12) (s : State) : Answer := .next (s.setPc (zextAddr nnn))

/-- CALL nnn (R62). -/
def execCallNnn (nnn : BitVec 12) (s : State) : Answer :=
  if h : s.sp.val = 16 then .next (s.reportAndSkip (.stackOverflow s.pc nnn))
  else .next ((s.push (s.pc + 2) (by omega)).setPc (zextAddr nnn))

/-- SE Vx,kk (R63). -/
def execSeVxKk (x : Reg) (kk : Byte) (s : State) : Answer := .next (s.skipIf (s.readV x == kk))

/-- SNE Vx,kk (R64). -/
def execSneVxKk (x : Reg) (kk : Byte) (s : State) : Answer := .next (s.skipIf (s.readV x != kk))

/-- SE Vx,Vy (R65); the ignored nibble is no operand. -/
def execSeVxVy (x y : Reg) (s : State) : Answer := .next (s.skipIf (s.readV x == s.readV y))

/-- SNE Vx,Vy (R66); the ignored nibble is no operand. -/
def execSneVxVy (x y : Reg) (s : State) : Answer := .next (s.skipIf (s.readV x != s.readV y))

/-- JP V0,nnn (R67). -/
def execJpV0Nnn (nnn : BitVec 12) (s : State) : Answer :=
  .next (s.setPc (zextAddr nnn + zextByte (s.readV 0)))

end Sys2Proof.Machine
end

