-- ==== Sys2Proof/Machine/Flags.lean ====
section
/-! DEFINITION. The values the six flag-writing instructions give `VF` (10_state R11, 41_load_alu R76 to R80,
43_display R94), each 0 or 1, computed on the operands as unsigned numbers. -/

namespace Sys2Proof.Machine

/-- A flag value: 1 or 0. -/
def flagByte (c : Bool) : Byte := if c then 1 else 0

/-- The carry out of bit 7 of `a + b` (41_load_alu R76). -/
def carryOut (a b : Byte) : Byte := flagByte (a.toNat + b.toNat > 255)

/-- Not-borrow of `a - b`: 1 when `a >= b` (41_load_alu R77, D11; log 12). -/
def notBorrow (a b : Byte) : Byte := flagByte (a.toNat ≥ b.toNat)

/-- The bit a right shift puts out, `a[0]` (41_load_alu R78). -/
def bitOutRight (a : Byte) : Byte := flagByte (a.getLsbD 0)

/-- The bit a left shift puts out, `a[7]` (41_load_alu R80). -/
def bitOutLeft (a : Byte) : Byte := flagByte (a.getLsbD 7)

end Sys2Proof.Machine
end

