-- ==== Sys2Proof/Machine/Display.lean ====
section
/-! DEFINITION. The display instructions and the sprite compositor (43_display). -/

namespace Sys2Proof.Machine

/-- CLS (43_display R93). -/
def execCls (s : State) : Answer := .next (s.setDisplay 0).nextInstr

/-- One bit of a sprite row: column 0 is bit 7 (43_display R94, D20; log 15). -/
def spriteBit (b : Byte) (col : Nat) : Bool := b.getLsbD (7 - col)

/-- One pixel of the blit: the exclusive-or, and whether a set pixel met a 1 bit so far (43_display R94, the body of the
loops). -/
def blitPixel (vx vy row : Nat) (b : Byte) (d : Display × Bool) (col : Nat) : Display × Bool :=
  let px := (vx + col) % Config.displayWidth
  let py := (vy + row) % Config.displayHeight
  let bit := spriteBit b col
  (xorPixel d.1 px py bit, d.2 || (pixel d.1 px py && bit))

/-- The eight columns of a row, in ascending order. -/
def blitRow (vx vy row : Nat) (b : Byte) (d : Display × Bool) : Display × Bool :=
  (List.range 8).foldl (blitPixel vx vy row b) d

/-- The rows of a sprite from row number `row` on, in ascending order. -/
def blitRows (vx vy : Nat) (row : Nat) : List Byte → Display × Bool → Display × Bool
  | [], d => d
  | b :: bs, d => blitRows vx vy (row + 1) bs (blitRow vx vy row b d)

/-- `drawSprite`: the display after the blit, and the collision (43_display R94). -/
def blit (vx vy : Nat) (sprite : List Byte) (d : Display) : Display × Bool := blitRows vx vy 0 sprite (d, false)

/-- DRW Vx,Vy,n (43_display R94): the coordinates and the sprite are read first, `VF` is written on every execution. -/
def execDrwVxVyN (x y : Reg) (n : Nat) (s : State) : Answer :=
  let r := blit (s.readV x).toNat (s.readV y).toNat (loadBytes s.mem (dataAddr s 0) n) s.display
  .next ((s.setDisplay r.1).writeV regF (flagByte r.2)).nextInstr

end Sys2Proof.Machine
end

