-- ==== Sys2Proof/Machine/IndexMemory.lean ====
section
/-! DEFINITION. Index register, font lookup, BCD and bulk register transfer (42_index_memory). -/

namespace Sys2Proof.Machine

/-- LD I,nnn (42_index_memory R85). -/
def execLdINnn (nnn : BitVec 12) (s : State) : Answer := .next (s.setI (zextAddr nnn)).nextInstr

/-- ADD I,Vx (R86); no flag (D4; log 13). -/
def execAddIVx (x : Reg) (s : State) : Answer := .next (s.setI (s.I + zextByte (s.readV x))).nextInstr

/-- LD F,Vx (R87). -/
def execLdFVx (x : Reg) (s : State) : Answer := .next (s.setI (glyphAddr (s.readV x))).nextInstr

/-- LD B,Vx (R88): the three digits at `I`, `I + 1`, `I + 2`. -/
def execLdBVx (x : Reg) (s : State) : Answer :=
  .next (s.setMem (storeBytes s.mem (dataAddr s 0) (bcdDigits (s.readV x)))).nextInstr

/-- LD [I],Vx (R89): `V[0]` to `V[x]` at `I`, ascending; `I` unchanged (D15; log 13). -/
def execLdMemIVx (x : Reg) (s : State) : Answer :=
  .next (s.setMem (storeBytes s.mem (dataAddr s 0) (regsThrough s x))).nextInstr

/-- The registers `V[0]`, `V[1]`, ... written with the bytes of a list, ascending from register `r`. -/
def State.writeRegs (r : Nat) : List Byte → State → State
  | [], s => s
  | b :: bs, s => State.writeRegs (r + 1) bs (s.writeV (Fin.ofNat 16 r) b)

/-- LD Vx,[I] (R90): `V[0]` to `V[x]` from `I`, ascending; `I` unchanged (D15; log 13). -/
def execLdVxMemI (x : Reg) (s : State) : Answer :=
  .next (s.writeRegs 0 (loadBytes s.mem (dataAddr s 0) (x.val + 1))).nextInstr

end Sys2Proof.Machine
end

