-- ==== Sys2Proof/Machine/LoadAlu.lean ====
section
/-! DEFINITION. Register load, arithmetic, logic, shift and random (41_load_alu). -/

namespace Sys2Proof.Machine

/-- One result to `V[x]`, no flag, `pc + 2`. -/
def State.result (x : Reg) (b : Byte) (s : State) : State := (s.writeV x b).nextInstr

/-- One result to `V[x]`, then the flag to `VF` (R83), `pc + 2`. -/
def State.resultWithFlag (x : Reg) (b flag : Byte) (s : State) : State := (s.writeWithFlag x b flag).nextInstr

/-- LD Vx,kk (41_load_alu R70). -/
def execLdVxKk (x : Reg) (kk : Byte) (s : State) : Answer := .next (s.result x kk)

/-- ADD Vx,kk (R71). -/
def execAddVxKk (x : Reg) (kk : Byte) (s : State) : Answer := .next (s.result x (s.readV x + kk))

/-- LD Vx,Vy (R72). -/
def execLdVxVy (x y : Reg) (s : State) : Answer := .next (s.result x (s.readV y))

/-- OR Vx,Vy (R73). -/
def execOrVxVy (x y : Reg) (s : State) : Answer := .next (s.result x (s.readV x ||| s.readV y))

/-- AND Vx,Vy (R74). -/
def execAndVxVy (x y : Reg) (s : State) : Answer := .next (s.result x (s.readV x &&& s.readV y))

/-- XOR Vx,Vy (R75). -/
def execXorVxVy (x y : Reg) (s : State) : Answer := .next (s.result x (s.readV x ^^^ s.readV y))

/-- ADD Vx,Vy (R76). -/
def execAddVxVy (x y : Reg) (s : State) : Answer :=
  .next (s.resultWithFlag x (s.readV x + s.readV y) (carryOut (s.readV x) (s.readV y)))

/-- SUB Vx,Vy (R77). -/
def execSubVxVy (x y : Reg) (s : State) : Answer :=
  .next (s.resultWithFlag x (s.readV x - s.readV y) (notBorrow (s.readV x) (s.readV y)))

/-- SHR Vx (R78); `y` is no operand (D12; log 12). -/
def execShrVx (x : Reg) (s : State) : Answer :=
  .next (s.resultWithFlag x (s.readV x >>> 1) (bitOutRight (s.readV x)))

/-- SUBN Vx,Vy (R79). -/
def execSubnVxVy (x y : Reg) (s : State) : Answer :=
  .next (s.resultWithFlag x (s.readV y - s.readV x) (notBorrow (s.readV y) (s.readV x)))

/-- SHL Vx (R80); `y` is no operand (D12; log 12). -/
def execShlVx (x : Reg) (s : State) : Answer :=
  .next (s.resultWithFlag x (s.readV x <<< 1) (bitOutLeft (s.readV x)))

/-- RND Vx,kk (R81): the drawn byte is a free value, one draw each execution (log 2). -/
def execRndVxKk (x : Reg) (kk : Byte) (s : State) : Answer :=
  .next ((s.result x (Config.freeByte s.draws &&& kk)).setDraws (s.draws + 1))

end Sys2Proof.Machine
end

