-- ==== Sys2Proof/Machine/KeypadTimers.lean ====
section
/-! DEFINITION. Keypad and timer instructions (44_keypad_timers). -/

namespace Sys2Proof.Machine

/-- SKP Vx (44_keypad_timers R100, R106). -/
def execSkpVx (x : Reg) (s : State) : Answer := .next (s.skipIf (keyDown s.key (lowNibble (s.readV x))))

/-- SKNP Vx (R101, R106). -/
def execSknpVx (x : Reg) (s : State) : Answer := .next (s.skipIf (!keyDown s.key (lowNibble (s.readV x))))

/-- LD Vx,K (R102): with no key down nothing is written and `pc` keeps its value. -/
def execLdVxK (x : Reg) (s : State) : Answer :=
  match lowestKey s.key with
  | none => .next s
  | some k => .next (s.result x (BitVec.ofNat 8 k))

/-- LD Vx,DT (R103). -/
def execLdVxDT (x : Reg) (s : State) : Answer := .next (s.result x s.DT)

/-- LD DT,Vx (R104); `acc` is not touched (D35; log 16). -/
def execLdDTVx (x : Reg) (s : State) : Answer := .next (s.setDT (s.readV x)).nextInstr

/-- LD ST,Vx (R105). -/
def execLdSTVx (x : Reg) (s : State) : Answer := .next (s.setST (s.readV x)).nextInstr

end Sys2Proof.Machine
end

