-- ==== Sys2Proof/Machine/Step.lean ====
section
/-! DEFINITION. The executor step (30_encoding R45). -/

namespace Sys2Proof.Machine

/-- `ExecStep`: fetch the word at `pc`, decode it, execute the instruction, or take the decode error (30_encoding
R45, R54). -/
def step (s : State) : Host.Outcome State Fault Refusal :=
  match decode (fetch16 s.mem s.pc) with
  | .ok i => exec i s
  | .error _ => decodeErrorStep (fetch16 s.mem s.pc) s

/-- The table's word `w` of `nbits` bits stored where `step` fetches, high byte first (log 20, log 22). -/
def State.withFetchWord (s : State) (nbits w : Nat) : State :=
  s.setMem (storeBytes s.mem s.pc.toNat
    [highByte (BitVec.ofNat 16 (w % 2 ^ nbits)), lowByte (BitVec.ofNat 16 (w % 2 ^ nbits))])

end Sys2Proof.Machine
end

