-- ==== Sys2Proof/Machine/Timers.lean ====
section
/-! DEFINITION. The Timer Pair (60_exceptions R121 to R123). -/

namespace Sys2Proof.Machine

/-- A timer one tick later: less one, floored at zero (60_exceptions R121). -/
def decTimer (t : Byte) : Byte := BitVec.ofNat 8 (t.toNat - 1)

/-- `TimerTick`: both timers stepped by the same event (R121). -/
def timerTick (s : State) : State := (s.setDT (decTimer s.DT)).setST (decTimer s.ST)

/-- `while acc > P: TimerTick; acc <- acc - P` (R122), with at most `fuel` turns. -/
def drainAcc : (fuel : Nat) → State → State
  | 0, s => s
  | fuel + 1, s =>
    if s.acc > Config.timerPeriod then drainAcc fuel ((timerTick s).setAcc (s.acc - Config.timerPeriod)) else s

/-- As many turns as whole periods fit into the accumulated time; the loop needs no more. -/
def drainFuel (acc : Rat) : Nat := (acc / Config.timerPeriod).floor.toNat

/-- `Advance(elapsedMs)` on an elapsed time of at least 0 (R122, D22; log 16); a negative one is given no meaning. -/
def advance (elapsedMs : Rat) (s : State) : Answer :=
  if elapsedMs < 0 then .refused .negativeElapsedTime
  else
    let s1 := s.setAcc (s.acc + elapsedMs)
    .next (drainAcc (drainFuel s1.acc) s1)

end Sys2Proof.Machine
end

