-- ==== Sys2Proof/Machine/HostOps.lean ====
section
/-! DEFINITION. The Tick Driver and the operations of the host (60_exceptions R124 to R132, 70_reset_and_hazards R135 to
R139), each an atomic function on the state (D1), and the events whose interleavings R132 admits (log 18). -/

namespace Sys2Proof.Machine

/-- `Reset` (70_reset_and_hazards R135) with the parameter `FONT` as an argument (00_scope R6): "one fixed state, given
`FONT`", whatever the state before; the diagnostic output is left alone (10_state R26) and the model's draw counter goes
on (log 2). -/
def resetOp (font : Font) (s : State) : State :=
  ((State.reset.setMem (storeBytes [] Config.fontBase font.toList)).setDiag s.diag).setDraws s.draws

/-- `Load(bytes, size)` (70_reset_and_hazards R137, R138); arguments outside the host's duty are refused (D32; log 17). -/
def load (bytes : List Byte) (size : Int) (s : State) : Answer :=
  if size < 0 then .refused .negativeLoadSize
  else if bytes.length < size.toNat then .refused .loadSizeBeyondBuffer
  else
    let s1 := if size.toNat > Config.loadCapacity
      then s.report (.loadTruncation size.toNat Config.loadCapacity) else s
    .next ((s1.setMem (storeBytes s1.mem Config.progOrigin (bytes.take (min size.toNat Config.loadCapacity)))).setPc
      (BitVec.ofNat 16 Config.progOrigin))

/-- Bit `index` of the key latch set to `b`; an index outside 0..15 is ignored (60_exceptions R127). -/
def setKeyBit (b : Bool) (index : Int) (s : State) : State :=
  if 0 ≤ index ∧ index ≤ 15 then
    s.setKey (if b then s.key ||| BitVec.twoPow 16 index.toNat else s.key &&& ~~~BitVec.twoPow 16 index.toNat)
  else s

/-- `SetKeyDown(index)` (R127). -/
def setKeyDown (index : Int) (s : State) : State := setKeyBit true index s

/-- `SetKeyUp(index)` (R127). -/
def setKeyUp (index : Int) (s : State) : State := setKeyBit false index s

/-- `GetDisplay`: the 2048 pixels in row-major order (R128, D34). -/
def getDisplay (s : State) : List Bool := (List.range 2048).map s.display.getLsbD

/-- `GetSoundTimerValue` (R129). -/
def getSoundTimerValue (s : State) : Byte := s.ST

/-- `DisplayWidth` (R130). -/
def getDisplayWidth (_ : State) : Nat := Config.displayWidth

/-- `DisplayHeight` (R130). -/
def getDisplayHeight (_ : State) : Nat := Config.displayHeight

/-- `n` executor steps (60_exceptions R124). -/
def execSteps : Nat → State → Answer
  | 0, s => .next s
  | n + 1, s =>
    match step s with
    | .next t => execSteps n t
    | .fault f => .fault f
    | .refused r => .refused r

/-- `Tick(elapsedMs)` with the parameter `STEPS_PER_TICK`, a positive integer, as an argument (R124, 00_scope R6). -/
def tickWith (stepsPerTick : PNat) (elapsedMs : Rat) (s : State) : Answer :=
  if elapsedMs < 0 then .refused .negativeElapsedTime
  else
    match execSteps stepsPerTick.val s with
    | .next t => advance elapsedMs t
    | .fault f => .fault f
    | .refused r => .refused r

/-- `Tick(elapsedMs)` (R124) of the machine as `core` has it; the value of `STEPS_PER_TICK` is open (log 3). -/
def tick (elapsedMs : Rat) (s : State) : Answer := tickWith Config.params.stepsPerTick elapsedMs s

/-- Everything that can happen to the state: an executor step, a timer event, a call of the host (R126, R132). -/
inductive Event where
  | execStep
  | timerTick
  | advance (elapsedMs : Rat)
  | reset
  | load (bytes : List Byte) (size : Int)
  | tick (elapsedMs : Rat)
  | setKeyDown (index : Int)
  | setKeyUp (index : Int)
  deriving DecidableEq, Repr

/-- One event of a machine with the parameters `p`, atomic on the state (R131, R132). -/
def applyEvent (p : Params) (e : Event) (s : State) : Answer :=
  match e with
  | .execStep => step s
  | .timerTick => .next (timerTick s)
  | .advance elapsedMs => advance elapsedMs s
  | .reset => .next (resetOp p.font s)
  | .load bytes size => load bytes size s
  | .tick elapsedMs => tickWith p.stepsPerTick elapsedMs s
  | .setKeyDown index => .next (setKeyDown index s)
  | .setKeyUp index => .next (setKeyUp index s)

/-- A sequence of events of a machine with the parameters `p`, one after the other. -/
def runEvents (p : Params) : List Event → State → Answer
  | [], s => .next s
  | e :: es, s =>
    match applyEvent p e s with
    | .next t => runEvents p es t
    | .fault f => .fault f
    | .refused r => .refused r

end Sys2Proof.Machine
end

