-- ==== Sys2Proof/Safety.lean ====
section
/-! DEFINITION. The terms claims are stated in: the invariant of the machine (10_state R29), a quiet step, and the
frames (which parts of two states agree). -/

namespace Sys2Proof.Safety

open Sys2Proof.Machine

/-- The state invariants of 10_state R29 that the types do not carry: the accumulator stays within one period, and
memory keeps its canonical form (the model's own form of "`mem` has exactly 4096 bytes"). -/
abbrev MachineInv (s : State) : Prop :=
  0 ≤ s.acc ∧ s.acc ≤ Config.timerPeriod ∧ Memory.wf s.mem = true

/-- A step that reports nothing: the next state has the same diagnostic output (60_exceptions R110). -/
def QuietStep (s : State) : Prop := ∃ t, step s = .next t ∧ t.diag = s.diag

/-- Every byte of memory reads the same in both states. -/
def SameMem (s t : State) : Prop := ∀ a, memRead t.mem a = memRead s.mem a

/-- Every general register holds the same value in both states. -/
def SameRegs (s t : State) : Prop := ∀ r, t.readV r = s.readV r

/-- Every general register but those in `ws` holds the same value in both states. -/
def SameRegsBut (ws : List Reg) (s t : State) : Prop := ∀ r, r ∉ ws → t.readV r = s.readV r

/-- The call stack, the keys, the timer accumulator and the diagnostic output are the same. Only RET, CALL and errors
change the first and the last of these, and no instruction changes the rest. -/
def SameBackground (s t : State) : Prop :=
  t.stack = s.stack ∧ t.sp = s.sp ∧ t.key = s.key ∧ t.acc = s.acc ∧ t.diag = s.diag

/-- Both timers are the same. -/
def SameTimers (s t : State) : Prop := t.DT = s.DT ∧ t.ST = s.ST

/-! In the frames below the model's own field `draws` (log 2) is left open: `Obligations.OnlyRandomMovesDraws` says of
every step and every event what becomes of it. -/

/-- Nothing but general registers, `pc` and the model's draw counter may differ. -/
def OnlyRegsAndPc (s t : State) : Prop :=
  t.I = s.I ∧ t.display = s.display ∧ SameMem s t ∧ SameTimers s t ∧ SameBackground s t

/-- Nothing but `pc` and the model's draw counter may differ. -/
def OnlyPc (s t : State) : Prop := SameRegs s t ∧ OnlyRegsAndPc s t

/-- Nothing but the display, general registers, `pc` and the model's draw counter may differ. -/
def OnlyDisplayRegsAndPc (s t : State) : Prop :=
  t.I = s.I ∧ SameMem s t ∧ SameTimers s t ∧ SameBackground s t

/-- Nothing but `I`, `pc` and the model's draw counter may differ. -/
def OnlyIndexAndPc (s t : State) : Prop :=
  SameRegs s t ∧ t.display = s.display ∧ SameMem s t ∧ SameTimers s t ∧ SameBackground s t

/-- Nothing but memory, `pc` and the model's draw counter may differ. -/
def OnlyMemAndPc (s t : State) : Prop :=
  SameRegs s t ∧ t.I = s.I ∧ t.display = s.display ∧ SameTimers s t ∧ SameBackground s t

/-- Nothing but the call stack, the diagnostic output, `pc` and the model's draw counter may differ. -/
def OnlyStackDiagAndPc (s t : State) : Prop :=
  SameRegs s t ∧ t.I = s.I ∧ t.display = s.display ∧ SameMem s t ∧ SameTimers s t ∧ t.key = s.key ∧ t.acc = s.acc

/-- Every byte of memory but the `n` bytes from `a` on, each address wrapped on its own, reads the same (20_memory R33). -/
def SameMemOutside (a n : Nat) (s t : State) : Prop :=
  ∀ c, (∀ k, k < n → a12 c ≠ a12 (a + k)) → memRead t.mem c = memRead s.mem c

/-- The general registers an instruction may write (10_state R11, R10): its destination, `VF` for the six flag writers,
`V0` to `Vx` for the bulk load. -/
def writtenRegs : Instr → List Reg
  | .ldVxKk x _ | .addVxKk x _ | .ldVxVy x _ | .orVxVy x _ | .andVxVy x _ | .xorVxVy x _ | .rndVxKk x _
  | .ldVxDT x | .ldVxK x => [x]
  | .addVxVy x _ | .subVxVy x _ | .shrVx x _ | .subnVxVy x _ | .shlVx x _ => [x, regF]
  | .drwVxVyN _ _ _ => [regF]
  | .ldVxMemI x => (List.finRange 16).filter (· ≤ x)
  | .cls | .ret | .jpNnn _ | .callNnn _ | .seVxKk _ _ | .sneVxKk _ _ | .seVxVy _ _ _ | .sneVxVy _ _ _
  | .ldINnn _ | .jpV0Nnn _ | .skpVx _ | .sknpVx _ | .ldDTVx _ | .ldSTVx _ | .addIVx _ | .ldFVx _ | .ldBVx _
  | .ldMemIVx _ => []

/-- The six instructions that write `VF` as a side effect (10_state R11). -/
def writesFlag : Instr → Bool
  | .addVxVy _ _ | .subVxVy _ _ | .shrVx _ _ | .subnVxVy _ _ | .shlVx _ _ | .drwVxVyN _ _ _ => true
  | .cls | .ret | .jpNnn _ | .callNnn _ | .seVxKk _ _ | .sneVxKk _ _ | .seVxVy _ _ _ | .ldVxKk _ _ | .addVxKk _ _
  | .ldVxVy _ _ | .orVxVy _ _ | .andVxVy _ _ | .xorVxVy _ _ | .sneVxVy _ _ _ | .ldINnn _ | .jpV0Nnn _
  | .rndVxKk _ _ | .skpVx _ | .sknpVx _ | .ldVxDT _ | .ldVxK _ | .ldDTVx _ | .ldSTVx _ | .addIVx _ | .ldFVx _
  | .ldBVx _ | .ldMemIVx _ | .ldVxMemI _ => false

/-- The six skips: four on registers (40_control_flow R63 to R66), two on a key (44_keypad_timers R100, R101). -/
def isSkip : Instr → Bool
  | .seVxKk _ _ | .sneVxKk _ _ | .seVxVy _ _ _ | .sneVxVy _ _ _ | .skpVx _ | .sknpVx _ => true
  | .cls | .ret | .jpNnn _ | .callNnn _ | .ldVxKk _ _ | .addVxKk _ _ | .ldVxVy _ _ | .orVxVy _ _ | .andVxVy _ _
  | .xorVxVy _ _ | .addVxVy _ _ | .subVxVy _ _ | .shrVx _ _ | .subnVxVy _ _ | .shlVx _ _ | .ldINnn _ | .jpV0Nnn _
  | .rndVxKk _ _ | .drwVxVyN _ _ _ | .ldVxDT _ | .ldVxK _ | .ldDTVx _ | .ldSTVx _ | .addIVx _ | .ldFVx _
  | .ldBVx _ | .ldMemIVx _ | .ldVxMemI _ => false

/-- No key is down (44_keypad_timers R102). -/
def NoKeyDown (s : State) : Prop := ∀ k < 16, keyDown s.key k = false

/-- A 1 bit of the sprite of `DRW Vx,Vy,n` falls on the pixel in column `px`, row `py` (43_display R94). -/
def Covers (x y : Reg) (n : Nat) (s : State) (px py : Nat) : Prop :=
  ∃ row < n, ∃ col < 8, px = ((s.readV x).toNat + col) % 64 ∧ py = ((s.readV y).toNat + row) % 32 ∧
    (memRead s.mem (s.I.toNat + row)).getLsbD (7 - col) = true

/-- Two states that differ at most in what no instruction reads: `ST`, `acc`, the diagnostic output (44_keypad_timers
R107, 10_state R26). -/
def SameButUnread (s t : State) : Prop :=
  ((s.setST 0).setAcc 0).setDiag [] = ((t.setST 0).setAcc 0).setDiag []

/-- Two states that differ at most in the call-stack slots at and above `sp`, which hold no meaning (10_state R17). -/
def SameButDeadSlots (s t : State) : Prop :=
  s.setStack (Vector.replicate 16 0) = t.setStack (Vector.replicate 16 0) ∧
    ∀ k : Fin 16, k.val < s.sp.val → s.stack.get k = t.stack.get k

/-- What a `Reset` with the font `font` leaves (10_state R28, 70_reset_and_hazards R135), in every part of the state but
the diagnostic output and the model's draw counter. -/
def AsAfterReset (font : Font) (t : State) : Prop :=
  (∀ a < 4096, ¬ (0x50 ≤ a ∧ a < 0xA0) → memRead t.mem a = 0) ∧
  (∀ k : Fin 80, memRead t.mem (0x50 + k.val) = font.get k) ∧
  (∀ r, t.readV r = 0) ∧ t.I = 0 ∧ t.pc = 0x200 ∧ t.sp = 0 ∧ (∀ k, t.stack.get k = 0) ∧
  (∀ px py, pixel t.display px py = false) ∧ NoKeyDown t ∧ t.DT = 0 ∧ t.ST = 0 ∧ t.acc = 0

/-- A list of instructions executed one after the other, whatever memory holds. -/
def execAll : List Instr → State → Answer
  | [], s => .next s
  | i :: is, s =>
    match exec i s with
    | .next t => execAll is t
    | .fault f => .fault f
    | .refused r => .refused r

end Sys2Proof.Safety
end

