-- ==== Sys2Proof/Certificates/Slice0/Obligations.lean ====
section
/-! DEFINITION. The statements for the provers. Each docstring names the rule of spec/ the statement formalises, and,
where a clause rests on a decision the spec marks as its own (D<n> of 92_eei_decisions) or on a choice of the model
(log <n>), says so. "Nothing else changes" is said of the state the spec gives the machine; what becomes of the model's
own field `draws` (log 2) is said by `OnlyRandomMovesDraws`, for every step and every event. -/

open Sys2Proof Sys2Proof.Machine Sys2Proof.Safety

/-! ## Encoding -/

/-- One word of each family decodes to the instruction it stands for (30_encoding R52; the bit patterns are the spec's
own, D9, except those of `6005` and `7003`). -/
def Obligations.SampleWordsDecode : Prop :=
  decode 0x00E0 = .ok .cls ∧ decode 0x00EE = .ok .ret ∧ decode 0x1ABC = .ok (.jpNnn 0xABC) ∧
  decode 0x6005 = .ok (.ldVxKk 0 0x05) ∧ decode 0x7003 = .ok (.addVxKk 0 0x03) ∧
  decode 0x8AB6 = .ok (.shrVx 0xA 0xB) ∧ decode 0xF255 = .ok (.ldMemIVx 2) ∧
  decode 0xD125 = .ok (.drwVxVyN 1 2 5) ∧ decode 0xE2A1 = .ok (.sknpVx 2) ∧ decode 0xF318 = .ok (.ldSTVx 3)

/-- Every well-formed instruction is decoded from its own word, whatever its operands (30_encoding R47, R48, R52; D9). -/
def Obligations.EncodeThenDecode : Prop :=
  ∀ i : Instr, i.wellFormed = true → decode (encode i) = .ok i

/-- What the decoder reads from a word is well-formed and encodes to that very word: no bit is dropped, ignored bits
included (30_encoding R47, R53; log 21). -/
def Obligations.DecodeThenEncode : Prop :=
  ∀ (op : Word) (i : Instr), decode op = .ok i → i.wellFormed = true ∧ encode i = op

/-- The decoder agrees with the opcode table: a word is an instruction exactly when some row of the table selects it, the
row is the instruction's own, and no word matches two rows (30_encoding R52, R54, R59; D9, D10). -/
def Obligations.OpcodeTableDecides : Prop :=
  (∀ op : Word, (∃ i, decode op = .ok i) ↔ ∃ r ∈ opcodeRows, r.selects op = true) ∧
  (∀ (op : Word) (i : Instr), decode op = .ok i → ∀ r ∈ opcodeRows, r.selects op = true ↔ r = rowOf i)

/-- The bits a decoder does not examine change no execution: the low nibble of 5xyN and 9xyN, the field y of the shifts
(30_encoding R53; D10, D12). -/
def Obligations.IgnoredBitsHaveNoEffect : Prop :=
  ∀ (x y z : Reg) (p q : BitVec 4) (s : State),
    exec (.seVxVy x y p) s = exec (.seVxVy x y q) s ∧ exec (.sneVxVy x y p) s = exec (.sneVxVy x y q) s ∧
    exec (.shrVx x y) s = exec (.shrVx x z) s ∧ exec (.shlVx x y) s = exec (.shlVx x z) s

/-! ## The executor step -/

/-- When the word at `pc` decodes to an instruction, a step is its execution, with nothing around it: every handler
writes `pc` itself (30_encoding R45, 10_state R14). -/
def Obligations.StepRunsDecodedInstruction : Prop :=
  ∀ (s : State) (i : Instr), decode (fetch16 s.mem s.pc) = .ok i → step s = exec i s

/-- An instruction whose word is stored at `pc` is the instruction the next step runs: the fetch sees the store
(20_memory R34, R35, R40; the wrap of addresses is D2, the encodings are D9, the canonical memory is log 5). -/
def Obligations.StoredWordIsRun : Prop :=
  ∀ (s : State) (i : Instr), Memory.wf s.mem = true → i.wellFormed = true →
    step (s.withFetchWord 16 (encode i).toNat) = exec i (s.withFetchWord 16 (encode i).toNat)

/-- A word that no row of the table selects is a decode error: one record, `pc + 2`, nothing else changes; and only such
a word gives that record (30_encoding R54, 60_exceptions R111; rows of D9 and D10, record of D24, log 9). -/
def Obligations.UnmatchedWordIsSkipped : Prop :=
  (∀ s : State, (∀ r ∈ opcodeRows, r.selects (fetch16 s.mem s.pc) = false) →
    ∃ t, step s = .next t ∧ t.pc = s.pc + 2 ∧ t.diag = s.diag ++ [.decodeError (fetch16 s.mem s.pc) s.pc] ∧
      t.stack = s.stack ∧ t.sp = s.sp ∧ t.draws = s.draws ∧ OnlyStackDiagAndPc s t) ∧
  (∀ (s t : State) (op pc : Word), step s = .next t → t.diag = s.diag ++ [.decodeError op pc] →
    ∀ r ∈ opcodeRows, r.selects (fetch16 s.mem s.pc) = false)

/-- A step always completes, and reports at most one error, appended to the diagnostic output (30_encoding R45,
60_exceptions R110, R118). -/
def Obligations.StepAlwaysCompletes : Prop :=
  ∀ s : State, ∃ t, step s = .next t ∧ (t.diag = s.diag ∨ ∃ r, t.diag = s.diag ++ [r])

/-- The complete list of what a step does to `pc` (10_state R14): `pc + 2`; `pc + 4` for a skip; a target for JP, CALL,
RET and JP V0; unchanged for a key wait with no key down. That `pc` keeps 16 bits is D3, the slots of the stack are D30. -/
def Obligations.PcOutcomesAreComplete : Prop :=
  ∀ s t : State, step s = .next t →
    match decode (fetch16 s.mem s.pc) with
    | .error _ => t.pc = s.pc + 2
    | .ok (.jpNnn nnn) => t.pc = nnn.setWidth 16
    | .ok (.jpV0Nnn nnn) => t.pc = nnn.setWidth 16 + (s.readV 0).setWidth 16
    | .ok (.callNnn nnn) => t.pc = if s.sp.val = 16 then s.pc + 2 else nnn.setWidth 16
    | .ok .ret => if s.sp.val = 0 then t.pc = s.pc + 2 else ∃ k : Fin 16, k.val + 1 = s.sp.val ∧ t.pc = s.stack.get k
    | .ok (.ldVxK _) => (NoKeyDown s → t = s) ∧ (¬ NoKeyDown s → t.pc = s.pc + 2)
    | .ok i => if isSkip i = true then t.pc = s.pc + 2 ∨ t.pc = s.pc + 4 else t.pc = s.pc + 2

/-- A jump to itself leaves the whole state as it is, so a program that has reached it stays there (70_reset_and_hazards
R153, the spec's own convention D28; the encoding is D9). -/
def Obligations.SelfJumpChangesNothing : Prop :=
  ∀ s : State, s.pc.toNat < 4096 → fetch16 s.mem s.pc = 0x1000#16 ||| s.pc → step s = .next s

/-! ## Control transfer -/

/-- RET (40_control_flow R60, 60_exceptions R112): the top of the stack to `pc`; on an empty stack a reported underflow
and `pc + 2`. The fields of the record are the spec's own decision D24 (log 9); that the stack is slots and a depth, and
that the slots keep their bits, is D30 (log 19). -/
def Obligations.RetPopsIntoPc : Prop :=
  ∀ s : State, ∃ t, exec .ret s = .next t ∧ OnlyStackDiagAndPc s t ∧ t.stack = s.stack ∧
    (s.sp.val = 0 → t.pc = s.pc + 2 ∧ t.sp = s.sp ∧ t.diag = s.diag ++ [.stackUnderflow s.pc]) ∧
    (∀ k : Fin 16, k.val + 1 = s.sp.val → t.pc = s.stack.get k ∧ t.sp.val = k.val ∧ t.diag = s.diag)

/-- JP nnn (40_control_flow R61): `pc` is the literal, zero-extended; no other state of the spec
changes. -/
def Obligations.JumpSetsPc : Prop :=
  ∀ (nnn : BitVec 12) (s : State), ∃ t, exec (.jpNnn nnn) s = .next t ∧ t.pc.toNat = nnn.toNat ∧ OnlyPc s t

/-- CALL nnn (40_control_flow R62, 60_exceptions R113): `pc + 2` to the slot at `sp`, one address more, `pc` is the
literal; on a full stack a reported overflow, nothing pushed and `pc + 2`. No other slot changes. The fields of the
record are the spec's own decision D24 (log 9), the form of slots and a depth is D30 (log 19), the unmasked pushed address
is D3 (log 7). -/
def Obligations.CallPushesReturnAddress : Prop :=
  ∀ (nnn : BitVec 12) (s : State), ∃ t, exec (.callNnn nnn) s = .next t ∧ OnlyStackDiagAndPc s t ∧
    (s.sp.val = 16 → t.pc = s.pc + 2 ∧ t.stack = s.stack ∧ t.sp = s.sp ∧ t.diag = s.diag ++ [.stackOverflow s.pc nnn]) ∧
    (s.sp.val ≠ 16 → t.pc.toNat = nnn.toNat ∧ t.sp.val = s.sp.val + 1 ∧ t.diag = s.diag ∧
      ∀ k : Fin 16, t.stack.get k = if k.val = s.sp.val then s.pc + 2 else s.stack.get k)

/-- SE Vx,kk and SNE Vx,kk (40_control_flow R63, R64): 4 or 2 is added to `pc`; no other state of the
spec changes. -/
def Obligations.ImmediateSkips : Prop :=
  ∀ (x : Reg) (kk : Byte) (s : State),
    (∃ t, exec (.seVxKk x kk) s = .next t ∧ OnlyPc s t ∧ t.pc = s.pc + if s.readV x = kk then 4 else 2) ∧
    (∃ t, exec (.sneVxKk x kk) s = .next t ∧ OnlyPc s t ∧ t.pc = s.pc + if s.readV x ≠ kk then 4 else 2)

/-- SE Vx,Vy and SNE Vx,Vy (40_control_flow R65, R66), for every value of the ignored nibble. -/
def Obligations.RegisterSkips : Prop :=
  ∀ (x y : Reg) (pad : BitVec 4) (s : State),
    (∃ t, exec (.seVxVy x y pad) s = .next t ∧ OnlyPc s t ∧ t.pc = s.pc + if s.readV x = s.readV y then 4 else 2) ∧
    (∃ t, exec (.sneVxVy x y pad) s = .next t ∧ OnlyPc s t ∧ t.pc = s.pc + if s.readV x ≠ s.readV y then 4 else 2)

/-- JP V0,nnn (40_control_flow R67): `pc` is the literal plus `V0`, at most 0x10FE, not reduced to 12 bits
(D3). -/
def Obligations.JumpWithOffset : Prop :=
  ∀ (nnn : BitVec 12) (s : State), ∃ t, exec (.jpV0Nnn nnn) s = .next t ∧ OnlyPc s t ∧
    t.pc.toNat = nnn.toNat + (s.readV 0).toNat ∧ t.pc.toNat ≤ 0x10FE

/-- Calls nested to any depth the stack still has room for, followed by as many returns, end at the address after the
first call with the stack as it was (40_control_flow R69, which is the case of one call; the form of the stack is D30,
log 19, the unmasked address is D3, log 7). -/
def Obligations.NestedCallsReturn : Prop :=
  ∀ (s : State) (nnn : BitVec 12) (targets : List (BitVec 12)), s.sp.val + targets.length + 1 ≤ 16 →
    ∃ t, execAll ((nnn :: targets).map Instr.callNnn ++ List.replicate (targets.length + 1) Instr.ret) s = .next t ∧
      t.pc = s.pc + 2 ∧ t.sp = s.sp ∧ t.diag = s.diag ∧
      ∀ k : Fin 16, k.val < s.sp.val → t.stack.get k = s.stack.get k

/-! ## Load, arithmetic, logic, shift, random -/

/-- LD Vx,kk and ADD Vx,kk (41_load_alu R70, R71): no flag; every register but `V[x]` keeps its value, `VF` included
unless it is the destination. -/
def Obligations.ImmediateLoadAndAdd : Prop :=
  ∀ (x : Reg) (kk : Byte) (s : State),
    (∃ t, exec (.ldVxKk x kk) s = .next t ∧ t.readV x = kk ∧ t.pc = s.pc + 2 ∧ SameRegsBut [x] s t ∧
      OnlyRegsAndPc s t) ∧
    (∃ t, exec (.addVxKk x kk) s = .next t ∧ (t.readV x).toNat = ((s.readV x).toNat + kk.toNat) % 256 ∧
      t.pc = s.pc + 2 ∧ SameRegsBut [x] s t ∧ OnlyRegsAndPc s t)

/-- LD, OR, AND, XOR Vx,Vy (41_load_alu R72 to R75); that `VF` keeps its value is the spec's own decision D13. -/
def Obligations.CopyAndLogic : Prop :=
  ∀ (x y : Reg) (s : State),
    (∃ t, exec (.ldVxVy x y) s = .next t ∧ t.readV x = s.readV y ∧ t.pc = s.pc + 2 ∧ SameRegsBut [x] s t ∧
      OnlyRegsAndPc s t) ∧
    (∃ t, exec (.orVxVy x y) s = .next t ∧ (∀ k, (t.readV x).getLsbD k = ((s.readV x).getLsbD k || (s.readV y).getLsbD k)) ∧
      t.pc = s.pc + 2 ∧ SameRegsBut [x] s t ∧ OnlyRegsAndPc s t) ∧
    (∃ t, exec (.andVxVy x y) s = .next t ∧ (∀ k, (t.readV x).getLsbD k = ((s.readV x).getLsbD k && (s.readV y).getLsbD k)) ∧
      t.pc = s.pc + 2 ∧ SameRegsBut [x] s t ∧ OnlyRegsAndPc s t) ∧
    (∃ t, exec (.xorVxVy x y) s = .next t ∧ (∀ k, (t.readV x).getLsbD k = ((s.readV x).getLsbD k != (s.readV y).getLsbD k)) ∧
      t.pc = s.pc + 2 ∧ SameRegsBut [x] s t ∧ OnlyRegsAndPc s t)

/-- ADD Vx,Vy (41_load_alu R76): the carry ends in `VF`, the sum in `V[x]` unless `x` is 15 (write order: D14). -/
def Obligations.AddSetsCarry : Prop :=
  ∀ (x y : Reg) (s : State), ∃ t, exec (.addVxVy x y) s = .next t ∧
    (x ≠ 15 → (t.readV x).toNat = ((s.readV x).toNat + (s.readV y).toNat) % 256) ∧
    t.readV 15 = (if (s.readV x).toNat + (s.readV y).toNat > 255 then 1 else 0) ∧
    t.pc = s.pc + 2 ∧ SameRegsBut [x, 15] s t ∧ OnlyRegsAndPc s t

/-- SUB and SUBN (41_load_alu R77, R79): not-borrow ends in `VF` (polarity: D11), the difference modulo 256 in `V[x]`
unless `x` is 15 (D14). -/
def Obligations.SubtractSetsNotBorrow : Prop :=
  ∀ (x y : Reg) (s : State),
    (∃ t, exec (.subVxVy x y) s = .next t ∧
      (x ≠ 15 → (t.readV x).toNat = (256 + (s.readV x).toNat - (s.readV y).toNat) % 256) ∧
      t.readV 15 = (if (s.readV x).toNat ≥ (s.readV y).toNat then 1 else 0) ∧
      t.pc = s.pc + 2 ∧ SameRegsBut [x, 15] s t ∧ OnlyRegsAndPc s t) ∧
    (∃ t, exec (.subnVxVy x y) s = .next t ∧
      (x ≠ 15 → (t.readV x).toNat = (256 + (s.readV y).toNat - (s.readV x).toNat) % 256) ∧
      t.readV 15 = (if (s.readV y).toNat ≥ (s.readV x).toNat then 1 else 0) ∧
      t.pc = s.pc + 2 ∧ SameRegsBut [x, 15] s t ∧ OnlyRegsAndPc s t)

/-- SHR and SHL (41_load_alu R78, R80): `V[x]` shifted by one, the bit out in `VF`; `V[y]` plays no part (D12), and the
flag is what remains when `x` is 15 (D14). -/
def Obligations.ShiftsPutOutOneBit : Prop :=
  ∀ (x y : Reg) (s : State),
    (∃ t, exec (.shrVx x y) s = .next t ∧ (x ≠ 15 → (t.readV x).toNat = (s.readV x).toNat / 2) ∧
      (t.readV 15).toNat = (s.readV x).toNat % 2 ∧ t.pc = s.pc + 2 ∧ SameRegsBut [x, 15] s t ∧ OnlyRegsAndPc s t) ∧
    (∃ t, exec (.shlVx x y) s = .next t ∧ (x ≠ 15 → (t.readV x).toNat = 2 * (s.readV x).toNat % 256) ∧
      (t.readV 15).toNat = (s.readV x).toNat / 128 ∧ t.pc = s.pc + 2 ∧ SameRegsBut [x, 15] s t ∧ OnlyRegsAndPc s t)

/-- RND Vx,kk (41_load_alu R81, D19): the drawn byte, a free value (log 2), and-ed with `kk`; the next draw is another
one; no flag. It holds for every value of `draws`. -/
def Obligations.RandomIsMasked : Prop :=
  ∀ (x : Reg) (kk : Byte) (s : State), ∃ t, exec (.rndVxKk x kk) s = .next t ∧
    t.readV x = Config.freeByte s.draws &&& kk ∧ t.readV x &&& ~~~kk = 0 ∧ t.draws = s.draws + 1 ∧
    t.pc = s.pc + 2 ∧ SameRegsBut [x] s t ∧ OnlyRegsAndPc s t

/-- The six flag writers leave 0 or 1 in `VF` on every execution (10_state R11). For `x = 15` it holds because the flag is
written after the result (D14, log 12), for DRW with `n = 0` because `VF` is written then too (D21, log 15). -/
def Obligations.FlagWritersLeaveZeroOrOne : Prop :=
  ∀ (i : Instr) (s t : State), writesFlag i = true → exec i s = .next t → t.readV 15 = 0 ∨ t.readV 15 = 1

/-- No instruction changes a general register other than its destination, `VF` for the six flag writers, and `V0` to
`Vx` for the bulk load (10_state R10, R11); a decode error changes none. That LD, OR, AND and XOR leave `VF` alone is D13
(log 12), that the shifts take no `Vy` is D12 (log 12), that ADD I sets no flag is D4 (log 13). -/
def Obligations.RegistersChangeOnlyAsNamed : Prop :=
  (∀ (i : Instr) (s t : State), exec i s = .next t → SameRegsBut (writtenRegs i) s t) ∧
  (∀ (s t : State) (e : Reject), decode (fetch16 s.mem s.pc) = .error e → step s = .next t → SameRegs s t)

/-! ## Index register and memory -/

/-- LD I,nnn (42_index_memory R85). -/
def Obligations.LoadIndex : Prop :=
  ∀ (nnn : BitVec 12) (s : State), ∃ t, exec (.ldINnn nnn) s = .next t ∧ t.I.toNat = nnn.toNat ∧ t.pc = s.pc + 2 ∧
    OnlyIndexAndPc s t

/-- ADD I,Vx and LD F,Vx (42_index_memory R86, R87): that the sum keeps 16 bits and sets no flag is D4, that the digit is
the low nibble is D16. -/
def Obligations.IndexAddAndGlyphAddress : Prop :=
  ∀ (x : Reg) (s : State),
    (∃ t, exec (.addIVx x) s = .next t ∧ t.I.toNat = (s.I.toNat + (s.readV x).toNat) % 65536 ∧ t.pc = s.pc + 2 ∧
      OnlyIndexAndPc s t) ∧
    (∃ t, exec (.ldFVx x) s = .next t ∧ t.I.toNat = 0x50 + 5 * ((s.readV x).toNat % 16) ∧ t.pc = s.pc + 2 ∧
      OnlyIndexAndPc s t)

/-- LD B,Vx (42_index_memory R88): hundreds, tens and ones at `I`, `I + 1`, `I + 2`, each address wrapped (D2); every
other byte, and `I`, as before. Reading the bytes back needs the canonical memory the machine keeps (log 5). -/
def Obligations.BcdStoresThreeDigits : Prop :=
  ∀ (x : Reg) (s : State), Memory.wf s.mem = true → ∃ t, exec (.ldBVx x) s = .next t ∧
    (memRead t.mem s.I.toNat).toNat = (s.readV x).toNat / 100 ∧
    (memRead t.mem (s.I.toNat + 1)).toNat = (s.readV x).toNat / 10 % 10 ∧
    (memRead t.mem (s.I.toNat + 2)).toNat = (s.readV x).toNat % 10 ∧
    SameMemOutside (dataAddr s 0) 3 s t ∧ t.pc = s.pc + 2 ∧ OnlyMemAndPc s t

/-- LD [I],Vx (42_index_memory R89): `V0` to `Vx` at `I` to `I + x`, each address wrapped (D2); `I` unchanged (D15);
every other byte as before. Reading the bytes back needs the canonical memory the machine keeps (log 5). -/
def Obligations.BulkStore : Prop :=
  ∀ (x : Reg) (s : State), Memory.wf s.mem = true → ∃ t, exec (.ldMemIVx x) s = .next t ∧
    (∀ r : Reg, r ≤ x → memRead t.mem (s.I.toNat + r.val) = s.readV r) ∧
    SameMemOutside (dataAddr s 0) (x.val + 1) s t ∧ t.pc = s.pc + 2 ∧ OnlyMemAndPc s t

/-- LD Vx,[I] (42_index_memory R90): `V0` to `Vx` from `I` to `I + x`, each address wrapped (D2); the registers above `x`
and `I` (D15) unchanged. -/
def Obligations.BulkLoad : Prop :=
  ∀ (x : Reg) (s : State), ∃ t, exec (.ldVxMemI x) s = .next t ∧
    (∀ r : Reg, t.readV r = if r ≤ x then memRead s.mem (s.I.toNat + r.val) else s.readV r) ∧
    t.pc = s.pc + 2 ∧ OnlyRegsAndPc s t

/-- A bulk store and then a bulk load of a part of the range give those registers back, whatever was in them in between
(42_index_memory R89, R90; `I` is left alone by both, D15), wherever `I` points, the top of memory included (D2);
reading back needs the canonical memory (log 5). -/
def Obligations.BulkStoreThenLoadRestores : Prop :=
  ∀ (x z : Reg) (s : State) (v : Vector Byte 16), Memory.wf s.mem = true → z ≤ x →
    ∃ t u, exec (.ldMemIVx x) s = .next t ∧ exec (.ldVxMemI z) (t.setV v) = .next u ∧
      ∀ r : Reg, r ≤ z → u.readV r = s.readV r

/-- Two memories in canonical form that read the same at every address are the same list (log 5), so comparing states
compares memories. -/
def Obligations.EqualMemoriesAreEqualData : Prop :=
  ∀ m m' : Memory, Memory.wf m = true → Memory.wf m' = true → (∀ a, memRead m a = memRead m' a) → m = m'

/-- Every access wraps modulo 4096, and a fetch wraps each of its two bytes (20_memory R32, R35; the wrap is D2). -/
def Obligations.AccessesWrap : Prop :=
  ∀ (m : Memory) (a : Nat) (b : Byte) (p : Word),
    memRead m (a + 4096) = memRead m a ∧ memWrite m (a + 4096) b = memWrite m a b ∧
    (fetch16 m p).toNat = (memRead m (p.toNat % 4096)).toNat * 256 + (memRead m ((p.toNat + 1) % 4096)).toNat

/-! ## Display -/

/-- CLS (43_display R93): every pixel 0; `VF` and all other state of the spec but `pc` unchanged. -/
def Obligations.ClearDisplay : Prop :=
  ∀ s : State, ∃ t, exec .cls s = .next t ∧ (∀ px py, pixel t.display px py = false) ∧ t.pc = s.pc + 2 ∧
    SameRegs s t ∧ OnlyDisplayRegsAndPc s t

/-- DRW Vx,Vy,n (43_display R94): exactly the pixels on which a 1 bit of the sprite falls are flipped, coordinates taken
modulo 64 and 32; no register but `VF`, no byte of memory and not `I` changes (sprite geometry: D20, D21; the wrap of
the sprite's addresses: D2). -/
def Obligations.DrawFlipsCoveredPixels : Prop :=
  ∀ (x y : Reg) (n : Nat) (s : State), n ≤ 15 → ∃ t, exec (.drwVxVyN x y n) s = .next t ∧
    (∀ px < 64, ∀ py < 32, pixel t.display px py ≠ pixel s.display px py ↔ Covers x y n s px py) ∧
    t.pc = s.pc + 2 ∧ SameRegsBut [15] s t ∧ OnlyDisplayRegsAndPc s t

/-- The collision law (43_display R96): `VF` is 1 if and only if a 1 bit of the sprite falls on a pixel that was set
before the instruction, and 0 otherwise, also for `n = 0` (sprite geometry: D20, D21). -/
def Obligations.DrawCollision : Prop :=
  ∀ (x y : Reg) (n : Nat) (s t : State), n ≤ 15 → exec (.drwVxVyN x y n) s = .next t →
    (t.readV 15 = 1 ↔ ∃ px < 64, ∃ py < 32, Covers x y n s px py ∧ pixel s.display px py = true) ∧
    (t.readV 15 = 0 ∨ t.readV 15 = 1)

/-- The blit is self-inverse (43_display R95): the same sprite drawn twice at the same coordinates gives the display back.
The second draw collides exactly when a 1 bit fell on a pixel that was clear before the first; so R95's last clause, that
it collides when the sprite has a 1 bit, is stated where the first draw did not collide, as R94 and R96 have it only there
(log 24, a conflict the spec does not rule on). "Same coordinates" must be checked when `x` or `y` is 15, since the first draw rewrites `VF`. -/
def Obligations.DrawTwiceRestores : Prop :=
  ∀ (x y : Reg) (n : Nat) (s t u : State), n ≤ 15 → exec (.drwVxVyN x y n) s = .next t →
    t.readV x = s.readV x → t.readV y = s.readV y → exec (.drwVxVyN x y n) t = .next u →
    u.display = s.display ∧
    (u.readV 15 = 1 ↔ ∃ px < 64, ∃ py < 32, Covers x y n s px py ∧ pixel s.display px py = false) ∧
    (t.readV 15 = 0 → (u.readV 15 = 1 ↔ ∃ row < n, memRead s.mem (s.I.toNat + row) ≠ 0))

/-! ## Keypad and timers -/

/-- SKP and SKNP (44_keypad_timers R100, R101); that the key number is the low nibble is D17. -/
def Obligations.KeySkips : Prop :=
  ∀ (x : Reg) (s : State),
    (∃ t, exec (.skpVx x) s = .next t ∧ OnlyPc s t ∧
      t.pc = s.pc + if s.key.getLsbD ((s.readV x).toNat % 16) = true then 4 else 2) ∧
    (∃ t, exec (.sknpVx x) s = .next t ∧ OnlyPc s t ∧
      t.pc = s.pc + if s.key.getLsbD ((s.readV x).toNat % 16) = false then 4 else 2)

/-- LD Vx,K (44_keypad_timers R102): with no key down nothing at all changes; otherwise the number of the lowest key that
is down goes to `V[x]` (lowest first: D18) and `pc` advances by 2. -/
def Obligations.KeyWait : Prop :=
  ∀ (x : Reg) (s : State),
    (NoKeyDown s → exec (.ldVxK x) s = .next s) ∧
    (∀ k < 16, keyDown s.key k = true → (∀ j < k, keyDown s.key j = false) →
      ∃ t, exec (.ldVxK x) s = .next t ∧ (t.readV x).toNat = k ∧ t.pc = s.pc + 2 ∧ SameRegsBut [x] s t ∧
        OnlyRegsAndPc s t)

/-- LD Vx,DT (44_keypad_timers R103). -/
def Obligations.ReadDelayTimer : Prop :=
  ∀ (x : Reg) (s : State), ∃ t, exec (.ldVxDT x) s = .next t ∧ t.readV x = s.DT ∧ t.pc = s.pc + 2 ∧
    SameRegsBut [x] s t ∧ OnlyRegsAndPc s t

/-- LD DT,Vx and LD ST,Vx (44_keypad_timers R104, R105); that `acc` keeps its value is D35. -/
def Obligations.SetTimers : Prop :=
  ∀ (x : Reg) (s : State),
    (∃ t, exec (.ldDTVx x) s = .next t ∧ t.DT = s.readV x ∧ t.ST = s.ST ∧ t.pc = s.pc + 2 ∧ SameRegs s t ∧
      t.I = s.I ∧ t.display = s.display ∧ SameMem s t ∧ SameBackground s t) ∧
    (∃ t, exec (.ldSTVx x) s = .next t ∧ t.ST = s.readV x ∧ t.DT = s.DT ∧ t.pc = s.pc + 2 ∧ SameRegs s t ∧
      t.I = s.I ∧ t.display = s.display ∧ SameMem s t ∧ SameBackground s t)

/-! ## Rules of the whole machine -/

/-- Who writes memory and `I`: no instruction but LD B and LD [I] changes a byte (20_memory R43), none but LD I, ADD I
and LD F changes `I` (42_index_memory R92; that the bulk transfers leave `I` alone is D15, log 13). -/
def Obligations.MemoryAndIndexWriters : Prop :=
  ∀ (i : Instr) (s t : State), exec i s = .next t →
    ((∀ x, i ≠ .ldBVx x ∧ i ≠ .ldMemIVx x) → SameMem s t) ∧
    ((∀ nnn x, i ≠ .ldINnn nnn ∧ i ≠ .addIVx x ∧ i ≠ .ldFVx x) → t.I = s.I)

/-- Who writes the display, the call stack and the diagnostic output: none but CLS and DRW a pixel (43_display R97), none
but CALL and RET the stack or its depth (10_state R17) or, in an instruction, the output (60_exceptions R118). -/
def Obligations.DisplayAndStackWriters : Prop :=
  ∀ (i : Instr) (s t : State), exec i s = .next t →
    ((i ≠ .cls ∧ ∀ x y n, i ≠ .drwVxVyN x y n) → t.display = s.display) ∧
    ((i ≠ .ret ∧ ∀ nnn, i ≠ .callNnn nnn) → t.stack = s.stack ∧ t.sp = s.sp ∧ t.diag = s.diag)

/-- Who writes the keys and the timers: no step changes a key or the accumulator (10_state R19, R22, 44_keypad_timers
R107), none but LD DT changes `DT`, none but LD ST changes `ST` (10_state R20, R21). That a step of LD DT or LD ST
leaves the accumulator alone is the spec's own decision D35 (log 16). -/
def Obligations.KeyAndTimerWriters : Prop :=
  ∀ s t : State, step s = .next t → t.key = s.key ∧ t.acc = s.acc ∧
    ((∀ x, decode (fetch16 s.mem s.pc) ≠ .ok (.ldDTVx x)) → t.DT = s.DT) ∧
    ((∀ x, decode (fetch16 s.mem s.pc) ≠ .ok (.ldSTVx x)) → t.ST = s.ST)

/-- No step reads `ST`, `acc` or the diagnostic output: two states that differ only there step to two states that differ
only there (44_keypad_timers R107, 10_state R26). -/
def Obligations.UnreadStateIsInvisible : Prop :=
  ∀ s s' t : State, SameButUnread s s' → step s = .next t → ∃ t', step s' = .next t' ∧ SameButUnread t t'

/-- The call-stack slots at and above `sp` hold no meaning: two states that differ only there step to two states that
differ only there (10_state R17; the form of slots and a depth is D30, log 19). -/
def Obligations.DeadStackSlotsAreInvisible : Prop :=
  ∀ s s' t : State, SameButDeadSlots s s' → step s = .next t → ∃ t', step s' = .next t' ∧ SameButDeadSlots t t'

/-! ## Invariants, reset and load -/

/-- The reset state meets the invariant (10_state R29). -/
def Obligations.ResetMeetsInvariant : Prop := MachineInv State.reset

/-- Every step keeps the invariant, from every state that meets it: the memory keeps its canonical form and the
accumulator stays within one period (10_state R29; the form of memory is log 5). -/
def Obligations.StepKeepsInvariant : Prop :=
  ∀ s t : State, MachineInv s → step s = .next t → MachineInv t

/-- Every event keeps the invariant, whatever the parameters: a timer tick, an advance of the timers, a whole tick and
every call of the host included (10_state R29 "preserved by every operation of this spec", 60_exceptions R126, R132; that
the host's operations are atomic is D1 and D26, log 18; the form of memory is log 5). -/
def Obligations.EveryEventKeepsInvariant : Prop :=
  ∀ (p : Params) (e : Event) (s t : State), MachineInv s → applyEvent p e s = .next t → MachineInv t

/-- What `Reset` leaves, for every `FONT` and from every state (10_state R28, 70_reset_and_hazards R135): memory, registers
and `I` are the document's, the other values the spec's own decisions D5 and D6 (log 8). The state the machine begins in is
such a state with the default font, whose bytes are D8 (log 4). -/
def Obligations.ResetValues : Prop :=
  (∀ (font : Font) (s : State), AsAfterReset font (resetOp font s)) ∧ AsAfterReset Config.font State.reset

/-- `Reset` does not depend on the state before it, given `FONT`, but for the diagnostic output, which it leaves alone
(D24), and the model's draw counter (log 2); it is idempotent; and with the default font (D8) it leaves `State.reset`
(70_reset_and_hazards R135, R136, 10_state R28). -/
def Obligations.ResetIsIdempotent : Prop :=
  (∀ (font : Font) (s s' : State), ((resetOp font s).setDiag s'.diag).setDraws s'.draws = resetOp font s' ∧
    resetOp font (resetOp font s) = resetOp font s ∧ (resetOp font s).diag = s.diag ∧
    (resetOp font s).draws = s.draws) ∧
  (∀ s : State, resetOp Config.font s = (State.reset.setDiag s.diag).setDraws s.draws)

/-- `Load` (70_reset_and_hazards R137 to R139, 60_exceptions R114; the origin is D25, the host's duty D32, the fields of
the record D24, log 9; reading back needs the canonical memory, log 5): the first
`min(size, 3584)` bytes at 0x200, no other byte changed, `pc` at 0x200, a record exactly when the program is too long,
nothing else changed. -/
def Obligations.LoadCopiesAndTruncates : Prop :=
  ∀ (bytes : List Byte) (size : Nat) (s : State), Memory.wf s.mem = true → size ≤ bytes.length →
    ∃ t, load bytes size s = .next t ∧
      (∀ k, k < min size 3584 → memRead t.mem (0x200 + k) = bytes.getD k 0) ∧
      (∀ a < 4096, a < 0x200 ∨ 0x200 + min size 3584 ≤ a → memRead t.mem a = memRead s.mem a) ∧
      t.pc = 0x200 ∧ t.diag = (if size > 3584 then s.diag ++ [.loadTruncation size 3584] else s.diag) ∧
      SameRegs s t ∧ t.I = s.I ∧ t.stack = s.stack ∧ t.sp = s.sp ∧ t.display = s.display ∧ t.key = s.key ∧
      SameTimers s t ∧ t.acc = s.acc ∧ t.draws = s.draws

/-! ## Timers and the host -/

/-- `TimerTick` (60_exceptions R121): each timer less one, floored at zero on its own; nothing else changes. -/
def Obligations.TimerTickDecrements : Prop :=
  ∀ s : State, (timerTick s).DT.toNat = s.DT.toNat - 1 ∧ (timerTick s).ST.toNat = s.ST.toNat - 1 ∧
    ((timerTick s).setDT s.DT).setST s.ST = s

/-- `Advance` (60_exceptions R122; exact arithmetic and the strict comparison are D22): from a state that meets the
invariant it performs `ceil((acc + elapsed) / P) - 1` timer ticks when that is positive and none otherwise, takes as
many periods off the accumulator, and leaves it within one period. -/
def Obligations.AdvanceCountsTicks : Prop :=
  ∀ (elapsed : Rat) (s : State), 0 ≤ elapsed → 0 ≤ s.acc → s.acc ≤ Config.timerPeriod →
    ∃ (n : Nat) (t : State), (n : Int) = max 0 (⌈(s.acc + elapsed) / Config.timerPeriod⌉ - 1) ∧
      advance elapsed s = .next t ∧ t = (timerTick^[n] s).setAcc (s.acc + elapsed - n * Config.timerPeriod) ∧
      0 ≤ t.acc ∧ t.acc ≤ Config.timerPeriod

/-- The timers never rise on elapsed time, however much of it one call brings (60_exceptions R123), and nothing but the
timers and the accumulator changes. -/
def Obligations.TimersNeverRise : Prop :=
  ∀ (elapsed : Rat) (s t : State), advance elapsed s = .next t →
    t.DT.toNat ≤ s.DT.toNat ∧ t.ST.toNat ≤ s.ST.toNat ∧ ((t.setDT s.DT).setST s.ST).setAcc s.acc = s

/-- The key setters (60_exceptions R127): one latch bit and nothing else, an index outside 0..15 changes nothing, and
nothing that can happen to the state but the setters and `Reset` writes the latch. -/
def Obligations.KeySettersChangeOneBit : Prop :=
  ∀ (index : Int) (s : State),
    (¬ (0 ≤ index ∧ index ≤ 15) → setKeyDown index s = s ∧ setKeyUp index s = s) ∧
    (∀ k : Nat, k < 16 → (k : Int) = index →
      (∀ j < 16, keyDown (setKeyDown index s).key j = (keyDown s.key j || j == k)) ∧
      (∀ j < 16, keyDown (setKeyUp index s).key j = (keyDown s.key j && j != k))) ∧
    (setKeyDown index s).setKey s.key = s ∧ (setKeyUp index s).setKey s.key = s ∧
    (∀ (p : Params) (e : Event) (t : State), (∀ k, e ≠ .setKeyDown k ∧ e ≠ .setKeyUp k) → e ≠ .reset →
      applyEvent p e s = .next t → t.key = s.key)

/-- `Tick` (60_exceptions R124) for every value of `STEPS_PER_TICK`: so many executor steps, then one advance of the
timers, and no more; it completes on every elapsed time of at least 0. -/
def Obligations.TickIsStepsThenAdvance : Prop :=
  ∀ (p : Params) (n : PNat) (elapsed : Rat) (s : State), 0 ≤ elapsed →
    tickWith n elapsed s = runEvents p (List.replicate n.val .execStep ++ [.advance elapsed]) s ∧
    ∃ t, tickWith n elapsed s = .next t

/-- The reads of the host (60_exceptions R128 to R130): 2048 pixels in row-major order (the form is D34), `ST`, 64 and 32. -/
def Obligations.HostReads : Prop :=
  ∀ s : State, (getDisplay s).length = 2048 ∧
    (∀ px < 64, ∀ py < 32, (getDisplay s).getD (py * 64 + px) false = pixel s.display px py) ∧
    getSoundTimerValue s = s.ST ∧ getDisplayWidth s = 64 ∧ getDisplayHeight s = 32

/-! ## The model's own field -/

/-- Who moves the draw counter, the model's own field (log 2), on which the freshness of the byte of RND rests (41_load_alu
R81 "a fresh free input at each execution", D19): a step of RND takes it on by one, no other step changes it, and no event
but a step, and a tick, which is made of steps, does. -/
def Obligations.OnlyRandomMovesDraws : Prop :=
  (∀ s t : State, step s = .next t →
    ((∃ x kk, decode (fetch16 s.mem s.pc) = .ok (.rndVxKk x kk)) → t.draws = s.draws + 1) ∧
    ((∀ x kk, decode (fetch16 s.mem s.pc) ≠ .ok (.rndVxKk x kk)) → t.draws = s.draws)) ∧
  (∀ (i : Instr) (s t : State), exec i s = .next t → (∀ x kk, i ≠ .rndVxKk x kk) → t.draws = s.draws) ∧
  (∀ (p : Params) (e : Event) (s t : State), e ≠ .execStep → (∀ elapsed, e ≠ .tick elapsed) →
    applyEvent p e s = .next t → t.draws = s.draws)
end

