-- ==== Sys2Proof/Laws/State.lean ====
section
/-! SUPPORT. One lemma per field per update of State, and per field per shared operation on registers, `pc` and the
diagnostic output, so that no proof unfolds a record update. -/

namespace Sys2Proof.Machine

variable (s : State)

/-! ### setV -/

@[simp] theorem State.setV_V (x : Vector Byte 16) : (s.setV x).V = x := rfl
@[simp] theorem State.setV_I (x : Vector Byte 16) : (s.setV x).I = s.I := rfl
@[simp] theorem State.setV_pc (x : Vector Byte 16) : (s.setV x).pc = s.pc := rfl
@[simp] theorem State.setV_stack (x : Vector Byte 16) : (s.setV x).stack = s.stack := rfl
@[simp] theorem State.setV_sp (x : Vector Byte 16) : (s.setV x).sp = s.sp := rfl
@[simp] theorem State.setV_display (x : Vector Byte 16) : (s.setV x).display = s.display := rfl
@[simp] theorem State.setV_key (x : Vector Byte 16) : (s.setV x).key = s.key := rfl
@[simp] theorem State.setV_DT (x : Vector Byte 16) : (s.setV x).DT = s.DT := rfl
@[simp] theorem State.setV_ST (x : Vector Byte 16) : (s.setV x).ST = s.ST := rfl
@[simp] theorem State.setV_acc (x : Vector Byte 16) : (s.setV x).acc = s.acc := rfl
@[simp] theorem State.setV_mem (x : Vector Byte 16) : (s.setV x).mem = s.mem := rfl
@[simp] theorem State.setV_diag (x : Vector Byte 16) : (s.setV x).diag = s.diag := rfl
@[simp] theorem State.setV_draws (x : Vector Byte 16) : (s.setV x).draws = s.draws := rfl

/-! ### setI -/

@[simp] theorem State.setI_V (x : Word) : (s.setI x).V = s.V := rfl
@[simp] theorem State.setI_I (x : Word) : (s.setI x).I = x := rfl
@[simp] theorem State.setI_pc (x : Word) : (s.setI x).pc = s.pc := rfl
@[simp] theorem State.setI_stack (x : Word) : (s.setI x).stack = s.stack := rfl
@[simp] theorem State.setI_sp (x : Word) : (s.setI x).sp = s.sp := rfl
@[simp] theorem State.setI_display (x : Word) : (s.setI x).display = s.display := rfl
@[simp] theorem State.setI_key (x : Word) : (s.setI x).key = s.key := rfl
@[simp] theorem State.setI_DT (x : Word) : (s.setI x).DT = s.DT := rfl
@[simp] theorem State.setI_ST (x : Word) : (s.setI x).ST = s.ST := rfl
@[simp] theorem State.setI_acc (x : Word) : (s.setI x).acc = s.acc := rfl
@[simp] theorem State.setI_mem (x : Word) : (s.setI x).mem = s.mem := rfl
@[simp] theorem State.setI_diag (x : Word) : (s.setI x).diag = s.diag := rfl
@[simp] theorem State.setI_draws (x : Word) : (s.setI x).draws = s.draws := rfl
@[simp] theorem State.setI_readV (x : Word) (r : Reg) : (s.setI x).readV r = s.readV r := rfl

/-! ### setPc -/

@[simp] theorem State.setPc_V (x : Word) : (s.setPc x).V = s.V := rfl
@[simp] theorem State.setPc_I (x : Word) : (s.setPc x).I = s.I := rfl
@[simp] theorem State.setPc_pc (x : Word) : (s.setPc x).pc = x := rfl
@[simp] theorem State.setPc_stack (x : Word) : (s.setPc x).stack = s.stack := rfl
@[simp] theorem State.setPc_sp (x : Word) : (s.setPc x).sp = s.sp := rfl
@[simp] theorem State.setPc_display (x : Word) : (s.setPc x).display = s.display := rfl
@[simp] theorem State.setPc_key (x : Word) : (s.setPc x).key = s.key := rfl
@[simp] theorem State.setPc_DT (x : Word) : (s.setPc x).DT = s.DT := rfl
@[simp] theorem State.setPc_ST (x : Word) : (s.setPc x).ST = s.ST := rfl
@[simp] theorem State.setPc_acc (x : Word) : (s.setPc x).acc = s.acc := rfl
@[simp] theorem State.setPc_mem (x : Word) : (s.setPc x).mem = s.mem := rfl
@[simp] theorem State.setPc_diag (x : Word) : (s.setPc x).diag = s.diag := rfl
@[simp] theorem State.setPc_draws (x : Word) : (s.setPc x).draws = s.draws := rfl
@[simp] theorem State.setPc_readV (x : Word) (r : Reg) : (s.setPc x).readV r = s.readV r := rfl

/-! ### setStack -/

@[simp] theorem State.setStack_V (x : Vector Word 16) : (s.setStack x).V = s.V := rfl
@[simp] theorem State.setStack_I (x : Vector Word 16) : (s.setStack x).I = s.I := rfl
@[simp] theorem State.setStack_pc (x : Vector Word 16) : (s.setStack x).pc = s.pc := rfl
@[simp] theorem State.setStack_stack (x : Vector Word 16) : (s.setStack x).stack = x := rfl
@[simp] theorem State.setStack_sp (x : Vector Word 16) : (s.setStack x).sp = s.sp := rfl
@[simp] theorem State.setStack_display (x : Vector Word 16) : (s.setStack x).display = s.display := rfl
@[simp] theorem State.setStack_key (x : Vector Word 16) : (s.setStack x).key = s.key := rfl
@[simp] theorem State.setStack_DT (x : Vector Word 16) : (s.setStack x).DT = s.DT := rfl
@[simp] theorem State.setStack_ST (x : Vector Word 16) : (s.setStack x).ST = s.ST := rfl
@[simp] theorem State.setStack_acc (x : Vector Word 16) : (s.setStack x).acc = s.acc := rfl
@[simp] theorem State.setStack_mem (x : Vector Word 16) : (s.setStack x).mem = s.mem := rfl
@[simp] theorem State.setStack_diag (x : Vector Word 16) : (s.setStack x).diag = s.diag := rfl
@[simp] theorem State.setStack_draws (x : Vector Word 16) : (s.setStack x).draws = s.draws := rfl
@[simp] theorem State.setStack_readV (x : Vector Word 16) (r : Reg) : (s.setStack x).readV r = s.readV r := rfl

/-! ### setSp -/

@[simp] theorem State.setSp_V (x : Fin 17) : (s.setSp x).V = s.V := rfl
@[simp] theorem State.setSp_I (x : Fin 17) : (s.setSp x).I = s.I := rfl
@[simp] theorem State.setSp_pc (x : Fin 17) : (s.setSp x).pc = s.pc := rfl
@[simp] theorem State.setSp_stack (x : Fin 17) : (s.setSp x).stack = s.stack := rfl
@[simp] theorem State.setSp_sp (x : Fin 17) : (s.setSp x).sp = x := rfl
@[simp] theorem State.setSp_display (x : Fin 17) : (s.setSp x).display = s.display := rfl
@[simp] theorem State.setSp_key (x : Fin 17) : (s.setSp x).key = s.key := rfl
@[simp] theorem State.setSp_DT (x : Fin 17) : (s.setSp x).DT = s.DT := rfl
@[simp] theorem State.setSp_ST (x : Fin 17) : (s.setSp x).ST = s.ST := rfl
@[simp] theorem State.setSp_acc (x : Fin 17) : (s.setSp x).acc = s.acc := rfl
@[simp] theorem State.setSp_mem (x : Fin 17) : (s.setSp x).mem = s.mem := rfl
@[simp] theorem State.setSp_diag (x : Fin 17) : (s.setSp x).diag = s.diag := rfl
@[simp] theorem State.setSp_draws (x : Fin 17) : (s.setSp x).draws = s.draws := rfl
@[simp] theorem State.setSp_readV (x : Fin 17) (r : Reg) : (s.setSp x).readV r = s.readV r := rfl

/-! ### setDisplay -/

@[simp] theorem State.setDisplay_V (x : Display) : (s.setDisplay x).V = s.V := rfl
@[simp] theorem State.setDisplay_I (x : Display) : (s.setDisplay x).I = s.I := rfl
@[simp] theorem State.setDisplay_pc (x : Display) : (s.setDisplay x).pc = s.pc := rfl
@[simp] theorem State.setDisplay_stack (x : Display) : (s.setDisplay x).stack = s.stack := rfl
@[simp] theorem State.setDisplay_sp (x : Display) : (s.setDisplay x).sp = s.sp := rfl
@[simp] theorem State.setDisplay_display (x : Display) : (s.setDisplay x).display = x := rfl
@[simp] theorem State.setDisplay_key (x : Display) : (s.setDisplay x).key = s.key := rfl
@[simp] theorem State.setDisplay_DT (x : Display) : (s.setDisplay x).DT = s.DT := rfl
@[simp] theorem State.setDisplay_ST (x : Display) : (s.setDisplay x).ST = s.ST := rfl
@[simp] theorem State.setDisplay_acc (x : Display) : (s.setDisplay x).acc = s.acc := rfl
@[simp] theorem State.setDisplay_mem (x : Display) : (s.setDisplay x).mem = s.mem := rfl
@[simp] theorem State.setDisplay_diag (x : Display) : (s.setDisplay x).diag = s.diag := rfl
@[simp] theorem State.setDisplay_draws (x : Display) : (s.setDisplay x).draws = s.draws := rfl
@[simp] theorem State.setDisplay_readV (x : Display) (r : Reg) : (s.setDisplay x).readV r = s.readV r := rfl

/-! ### setKey -/

@[simp] theorem State.setKey_V (x : BitVec 16) : (s.setKey x).V = s.V := rfl
@[simp] theorem State.setKey_I (x : BitVec 16) : (s.setKey x).I = s.I := rfl
@[simp] theorem State.setKey_pc (x : BitVec 16) : (s.setKey x).pc = s.pc := rfl
@[simp] theorem State.setKey_stack (x : BitVec 16) : (s.setKey x).stack = s.stack := rfl
@[simp] theorem State.setKey_sp (x : BitVec 16) : (s.setKey x).sp = s.sp := rfl
@[simp] theorem State.setKey_display (x : BitVec 16) : (s.setKey x).display = s.display := rfl
@[simp] theorem State.setKey_key (x : BitVec 16) : (s.setKey x).key = x := rfl
@[simp] theorem State.setKey_DT (x : BitVec 16) : (s.setKey x).DT = s.DT := rfl
@[simp] theorem State.setKey_ST (x : BitVec 16) : (s.setKey x).ST = s.ST := rfl
@[simp] theorem State.setKey_acc (x : BitVec 16) : (s.setKey x).acc = s.acc := rfl
@[simp] theorem State.setKey_mem (x : BitVec 16) : (s.setKey x).mem = s.mem := rfl
@[simp] theorem State.setKey_diag (x : BitVec 16) : (s.setKey x).diag = s.diag := rfl
@[simp] theorem State.setKey_draws (x : BitVec 16) : (s.setKey x).draws = s.draws := rfl
@[simp] theorem State.setKey_readV (x : BitVec 16) (r : Reg) : (s.setKey x).readV r = s.readV r := rfl

/-! ### setDT -/

@[simp] theorem State.setDT_V (x : Byte) : (s.setDT x).V = s.V := rfl
@[simp] theorem State.setDT_I (x : Byte) : (s.setDT x).I = s.I := rfl
@[simp] theorem State.setDT_pc (x : Byte) : (s.setDT x).pc = s.pc := rfl
@[simp] theorem State.setDT_stack (x : Byte) : (s.setDT x).stack = s.stack := rfl
@[simp] theorem State.setDT_sp (x : Byte) : (s.setDT x).sp = s.sp := rfl
@[simp] theorem State.setDT_display (x : Byte) : (s.setDT x).display = s.display := rfl
@[simp] theorem State.setDT_key (x : Byte) : (s.setDT x).key = s.key := rfl
@[simp] theorem State.setDT_DT (x : Byte) : (s.setDT x).DT = x := rfl
@[simp] theorem State.setDT_ST (x : Byte) : (s.setDT x).ST = s.ST := rfl
@[simp] theorem State.setDT_acc (x : Byte) : (s.setDT x).acc = s.acc := rfl
@[simp] theorem State.setDT_mem (x : Byte) : (s.setDT x).mem = s.mem := rfl
@[simp] theorem State.setDT_diag (x : Byte) : (s.setDT x).diag = s.diag := rfl
@[simp] theorem State.setDT_draws (x : Byte) : (s.setDT x).draws = s.draws := rfl
@[simp] theorem State.setDT_readV (x : Byte) (r : Reg) : (s.setDT x).readV r = s.readV r := rfl

/-! ### setST -/

@[simp] theorem State.setST_V (x : Byte) : (s.setST x).V = s.V := rfl
@[simp] theorem State.setST_I (x : Byte) : (s.setST x).I = s.I := rfl
@[simp] theorem State.setST_pc (x : Byte) : (s.setST x).pc = s.pc := rfl
@[simp] theorem State.setST_stack (x : Byte) : (s.setST x).stack = s.stack := rfl
@[simp] theorem State.setST_sp (x : Byte) : (s.setST x).sp = s.sp := rfl
@[simp] theorem State.setST_display (x : Byte) : (s.setST x).display = s.display := rfl
@[simp] theorem State.setST_key (x : Byte) : (s.setST x).key = s.key := rfl
@[simp] theorem State.setST_DT (x : Byte) : (s.setST x).DT = s.DT := rfl
@[simp] theorem State.setST_ST (x : Byte) : (s.setST x).ST = x := rfl
@[simp] theorem State.setST_acc (x : Byte) : (s.setST x).acc = s.acc := rfl
@[simp] theorem State.setST_mem (x : Byte) : (s.setST x).mem = s.mem := rfl
@[simp] theorem State.setST_diag (x : Byte) : (s.setST x).diag = s.diag := rfl
@[simp] theorem State.setST_draws (x : Byte) : (s.setST x).draws = s.draws := rfl
@[simp] theorem State.setST_readV (x : Byte) (r : Reg) : (s.setST x).readV r = s.readV r := rfl

/-! ### setAcc -/

@[simp] theorem State.setAcc_V (x : Rat) : (s.setAcc x).V = s.V := rfl
@[simp] theorem State.setAcc_I (x : Rat) : (s.setAcc x).I = s.I := rfl
@[simp] theorem State.setAcc_pc (x : Rat) : (s.setAcc x).pc = s.pc := rfl
@[simp] theorem State.setAcc_stack (x : Rat) : (s.setAcc x).stack = s.stack := rfl
@[simp] theorem State.setAcc_sp (x : Rat) : (s.setAcc x).sp = s.sp := rfl
@[simp] theorem State.setAcc_display (x : Rat) : (s.setAcc x).display = s.display := rfl
@[simp] theorem State.setAcc_key (x : Rat) : (s.setAcc x).key = s.key := rfl
@[simp] theorem State.setAcc_DT (x : Rat) : (s.setAcc x).DT = s.DT := rfl
@[simp] theorem State.setAcc_ST (x : Rat) : (s.setAcc x).ST = s.ST := rfl
@[simp] theorem State.setAcc_acc (x : Rat) : (s.setAcc x).acc = x := rfl
@[simp] theorem State.setAcc_mem (x : Rat) : (s.setAcc x).mem = s.mem := rfl
@[simp] theorem State.setAcc_diag (x : Rat) : (s.setAcc x).diag = s.diag := rfl
@[simp] theorem State.setAcc_draws (x : Rat) : (s.setAcc x).draws = s.draws := rfl
@[simp] theorem State.setAcc_readV (x : Rat) (r : Reg) : (s.setAcc x).readV r = s.readV r := rfl

/-! ### setMem -/

@[simp] theorem State.setMem_V (x : Memory) : (s.setMem x).V = s.V := rfl
@[simp] theorem State.setMem_I (x : Memory) : (s.setMem x).I = s.I := rfl
@[simp] theorem State.setMem_pc (x : Memory) : (s.setMem x).pc = s.pc := rfl
@[simp] theorem State.setMem_stack (x : Memory) : (s.setMem x).stack = s.stack := rfl
@[simp] theorem State.setMem_sp (x : Memory) : (s.setMem x).sp = s.sp := rfl
@[simp] theorem State.setMem_display (x : Memory) : (s.setMem x).display = s.display := rfl
@[simp] theorem State.setMem_key (x : Memory) : (s.setMem x).key = s.key := rfl
@[simp] theorem State.setMem_DT (x : Memory) : (s.setMem x).DT = s.DT := rfl
@[simp] theorem State.setMem_ST (x : Memory) : (s.setMem x).ST = s.ST := rfl
@[simp] theorem State.setMem_acc (x : Memory) : (s.setMem x).acc = s.acc := rfl
@[simp] theorem State.setMem_mem (x : Memory) : (s.setMem x).mem = x := rfl
@[simp] theorem State.setMem_diag (x : Memory) : (s.setMem x).diag = s.diag := rfl
@[simp] theorem State.setMem_draws (x : Memory) : (s.setMem x).draws = s.draws := rfl
@[simp] theorem State.setMem_readV (x : Memory) (r : Reg) : (s.setMem x).readV r = s.readV r := rfl

/-! ### setDiag -/

@[simp] theorem State.setDiag_V (x : List Diag) : (s.setDiag x).V = s.V := rfl
@[simp] theorem State.setDiag_I (x : List Diag) : (s.setDiag x).I = s.I := rfl
@[simp] theorem State.setDiag_pc (x : List Diag) : (s.setDiag x).pc = s.pc := rfl
@[simp] theorem State.setDiag_stack (x : List Diag) : (s.setDiag x).stack = s.stack := rfl
@[simp] theorem State.setDiag_sp (x : List Diag) : (s.setDiag x).sp = s.sp := rfl
@[simp] theorem State.setDiag_display (x : List Diag) : (s.setDiag x).display = s.display := rfl
@[simp] theorem State.setDiag_key (x : List Diag) : (s.setDiag x).key = s.key := rfl
@[simp] theorem State.setDiag_DT (x : List Diag) : (s.setDiag x).DT = s.DT := rfl
@[simp] theorem State.setDiag_ST (x : List Diag) : (s.setDiag x).ST = s.ST := rfl
@[simp] theorem State.setDiag_acc (x : List Diag) : (s.setDiag x).acc = s.acc := rfl
@[simp] theorem State.setDiag_mem (x : List Diag) : (s.setDiag x).mem = s.mem := rfl
@[simp] theorem State.setDiag_diag (x : List Diag) : (s.setDiag x).diag = x := rfl
@[simp] theorem State.setDiag_draws (x : List Diag) : (s.setDiag x).draws = s.draws := rfl
@[simp] theorem State.setDiag_readV (x : List Diag) (r : Reg) : (s.setDiag x).readV r = s.readV r := rfl

/-! ### setDraws -/

@[simp] theorem State.setDraws_V (x : Nat) : (s.setDraws x).V = s.V := rfl
@[simp] theorem State.setDraws_I (x : Nat) : (s.setDraws x).I = s.I := rfl
@[simp] theorem State.setDraws_pc (x : Nat) : (s.setDraws x).pc = s.pc := rfl
@[simp] theorem State.setDraws_stack (x : Nat) : (s.setDraws x).stack = s.stack := rfl
@[simp] theorem State.setDraws_sp (x : Nat) : (s.setDraws x).sp = s.sp := rfl
@[simp] theorem State.setDraws_display (x : Nat) : (s.setDraws x).display = s.display := rfl
@[simp] theorem State.setDraws_key (x : Nat) : (s.setDraws x).key = s.key := rfl
@[simp] theorem State.setDraws_DT (x : Nat) : (s.setDraws x).DT = s.DT := rfl
@[simp] theorem State.setDraws_ST (x : Nat) : (s.setDraws x).ST = s.ST := rfl
@[simp] theorem State.setDraws_acc (x : Nat) : (s.setDraws x).acc = s.acc := rfl
@[simp] theorem State.setDraws_mem (x : Nat) : (s.setDraws x).mem = s.mem := rfl
@[simp] theorem State.setDraws_diag (x : Nat) : (s.setDraws x).diag = s.diag := rfl
@[simp] theorem State.setDraws_draws (x : Nat) : (s.setDraws x).draws = x := rfl
@[simp] theorem State.setDraws_readV (x : Nat) (r : Reg) : (s.setDraws x).readV r = s.readV r := rfl

/-! ### nextInstr -/

@[simp] theorem State.nextInstr_V : s.nextInstr.V = s.V := rfl
@[simp] theorem State.nextInstr_I : s.nextInstr.I = s.I := rfl
@[simp] theorem State.nextInstr_pc : s.nextInstr.pc = s.pc + 2 := rfl
@[simp] theorem State.nextInstr_stack : s.nextInstr.stack = s.stack := rfl
@[simp] theorem State.nextInstr_sp : s.nextInstr.sp = s.sp := rfl
@[simp] theorem State.nextInstr_display : s.nextInstr.display = s.display := rfl
@[simp] theorem State.nextInstr_key : s.nextInstr.key = s.key := rfl
@[simp] theorem State.nextInstr_DT : s.nextInstr.DT = s.DT := rfl
@[simp] theorem State.nextInstr_ST : s.nextInstr.ST = s.ST := rfl
@[simp] theorem State.nextInstr_acc : s.nextInstr.acc = s.acc := rfl
@[simp] theorem State.nextInstr_mem : s.nextInstr.mem = s.mem := rfl
@[simp] theorem State.nextInstr_diag : s.nextInstr.diag = s.diag := rfl
@[simp] theorem State.nextInstr_draws : s.nextInstr.draws = s.draws := rfl
@[simp] theorem State.nextInstr_readV (q : Reg) : s.nextInstr.readV q = s.readV q := rfl

/-! ### skipIf -/

@[simp] theorem State.skipIf_V (c : Bool) : (s.skipIf c).V = s.V := rfl
@[simp] theorem State.skipIf_I (c : Bool) : (s.skipIf c).I = s.I := rfl
@[simp] theorem State.skipIf_pc (c : Bool) : (s.skipIf c).pc = if c then s.pc + 4 else s.pc + 2 := rfl
@[simp] theorem State.skipIf_stack (c : Bool) : (s.skipIf c).stack = s.stack := rfl
@[simp] theorem State.skipIf_sp (c : Bool) : (s.skipIf c).sp = s.sp := rfl
@[simp] theorem State.skipIf_display (c : Bool) : (s.skipIf c).display = s.display := rfl
@[simp] theorem State.skipIf_key (c : Bool) : (s.skipIf c).key = s.key := rfl
@[simp] theorem State.skipIf_DT (c : Bool) : (s.skipIf c).DT = s.DT := rfl
@[simp] theorem State.skipIf_ST (c : Bool) : (s.skipIf c).ST = s.ST := rfl
@[simp] theorem State.skipIf_acc (c : Bool) : (s.skipIf c).acc = s.acc := rfl
@[simp] theorem State.skipIf_mem (c : Bool) : (s.skipIf c).mem = s.mem := rfl
@[simp] theorem State.skipIf_diag (c : Bool) : (s.skipIf c).diag = s.diag := rfl
@[simp] theorem State.skipIf_draws (c : Bool) : (s.skipIf c).draws = s.draws := rfl
@[simp] theorem State.skipIf_readV (c : Bool) (q : Reg) : (s.skipIf c).readV q = s.readV q := rfl

/-! ### report -/

@[simp] theorem State.report_V (d : Diag) : (s.report d).V = s.V := rfl
@[simp] theorem State.report_I (d : Diag) : (s.report d).I = s.I := rfl
@[simp] theorem State.report_pc (d : Diag) : (s.report d).pc = s.pc := rfl
@[simp] theorem State.report_stack (d : Diag) : (s.report d).stack = s.stack := rfl
@[simp] theorem State.report_sp (d : Diag) : (s.report d).sp = s.sp := rfl
@[simp] theorem State.report_display (d : Diag) : (s.report d).display = s.display := rfl
@[simp] theorem State.report_key (d : Diag) : (s.report d).key = s.key := rfl
@[simp] theorem State.report_DT (d : Diag) : (s.report d).DT = s.DT := rfl
@[simp] theorem State.report_ST (d : Diag) : (s.report d).ST = s.ST := rfl
@[simp] theorem State.report_acc (d : Diag) : (s.report d).acc = s.acc := rfl
@[simp] theorem State.report_mem (d : Diag) : (s.report d).mem = s.mem := rfl
@[simp] theorem State.report_diag (d : Diag) : (s.report d).diag = s.diag ++ [d] := rfl
@[simp] theorem State.report_draws (d : Diag) : (s.report d).draws = s.draws := rfl
@[simp] theorem State.report_readV (d : Diag) (q : Reg) : (s.report d).readV q = s.readV q := rfl

/-! ### writeV -/

@[simp] theorem State.writeV_I (r : Reg) (b : Byte) : (s.writeV r b).I = s.I := rfl
@[simp] theorem State.writeV_pc (r : Reg) (b : Byte) : (s.writeV r b).pc = s.pc := rfl
@[simp] theorem State.writeV_stack (r : Reg) (b : Byte) : (s.writeV r b).stack = s.stack := rfl
@[simp] theorem State.writeV_sp (r : Reg) (b : Byte) : (s.writeV r b).sp = s.sp := rfl
@[simp] theorem State.writeV_display (r : Reg) (b : Byte) : (s.writeV r b).display = s.display := rfl
@[simp] theorem State.writeV_key (r : Reg) (b : Byte) : (s.writeV r b).key = s.key := rfl
@[simp] theorem State.writeV_DT (r : Reg) (b : Byte) : (s.writeV r b).DT = s.DT := rfl
@[simp] theorem State.writeV_ST (r : Reg) (b : Byte) : (s.writeV r b).ST = s.ST := rfl
@[simp] theorem State.writeV_acc (r : Reg) (b : Byte) : (s.writeV r b).acc = s.acc := rfl
@[simp] theorem State.writeV_mem (r : Reg) (b : Byte) : (s.writeV r b).mem = s.mem := rfl
@[simp] theorem State.writeV_diag (r : Reg) (b : Byte) : (s.writeV r b).diag = s.diag := rfl
@[simp] theorem State.writeV_draws (r : Reg) (b : Byte) : (s.writeV r b).draws = s.draws := rfl

/-! ### drop -/

@[simp] theorem State.drop_V : s.drop.V = s.V := rfl
@[simp] theorem State.drop_I : s.drop.I = s.I := rfl
@[simp] theorem State.drop_pc : s.drop.pc = s.pc := rfl
@[simp] theorem State.drop_stack : s.drop.stack = s.stack := rfl
@[simp] theorem State.drop_display : s.drop.display = s.display := rfl
@[simp] theorem State.drop_key : s.drop.key = s.key := rfl
@[simp] theorem State.drop_DT : s.drop.DT = s.DT := rfl
@[simp] theorem State.drop_ST : s.drop.ST = s.ST := rfl
@[simp] theorem State.drop_acc : s.drop.acc = s.acc := rfl
@[simp] theorem State.drop_mem : s.drop.mem = s.mem := rfl
@[simp] theorem State.drop_diag : s.drop.diag = s.diag := rfl
@[simp] theorem State.drop_draws : s.drop.draws = s.draws := rfl
@[simp] theorem State.drop_readV (q : Reg) : s.drop.readV q = s.readV q := rfl

end Sys2Proof.Machine
end

