-- ==== Sys2Proof/Laws/Control.lean ====
section
/-! SUPPORT. The two cases of each instruction that has two (RET, CALL, LD Vx,K), and the decode error: what is answered
in each, so that no later proof splits on the stack depth or on the keys again. -/

namespace Sys2Proof.Machine

/-! ## The call stack -/

/-- The depth after a push (10_state R17). -/
@[simp] theorem State.push_sp (s : State) (a : Word) (h : s.sp.val < 16) : (s.push a h).sp.val = s.sp.val + 1 := rfl

/-- The slots after a push: the one at the old depth, and no other, is written. -/
theorem State.push_get (s : State) (a : Word) (h : s.sp.val < 16) (k : Fin 16) :
    (s.push a h).stack.get k = if k.val = s.sp.val then a else s.stack.get k := by
  simp only [State.push, State.setSp_stack, State.setStack_stack, Vector.get_eq_getElem, Vector.getElem_set, eq_comm]

/-- A push changes only the slots and the depth. -/
theorem State.push_eq (s : State) (a : Word) (h : s.sp.val < 16) :
    s.push a h = (s.setStack (s.push a h).stack).setSp (s.push a h).sp := rfl

/-- The depth after a drop. -/
@[simp] theorem State.drop_sp (s : State) : s.drop.sp.val = s.sp.val - 1 := rfl

/-- What a push puts on top is what the top then is, and dropping it gives the depth back (40_control_flow R69). -/
theorem State.top_push (s : State) (a : Word) (h : s.sp.val < 16) (h' : (s.push a h).sp.val ≠ 0) :
    (s.push a h).top h' = a := by
  simp [State.top, State.push_get]

theorem State.drop_push_sp (s : State) (a : Word) (h : s.sp.val < 16) : (s.push a h).drop.sp = s.sp :=
  Fin.ext (by simp)

/-! ## The instructions of two cases -/

theorem execRet_empty {s : State} (h : s.sp.val = 0) : execRet s = .next (s.reportAndSkip (.stackUnderflow s.pc)) := by
  simp only [execRet, dif_pos h]

theorem execRet_pop {s : State} (h : s.sp.val ≠ 0) : execRet s = .next (s.drop.setPc (s.top h)) := by
  simp only [execRet, dif_neg h]

theorem execCallNnn_full {s : State} (h : s.sp.val = 16) (nnn : BitVec 12) :
    execCallNnn nnn s = .next (s.reportAndSkip (.stackOverflow s.pc nnn)) := by
  simp only [execCallNnn, dif_pos h]

theorem execCallNnn_push {s : State} (h : s.sp.val < 16) (nnn : BitVec 12) :
    execCallNnn nnn s = .next ((s.push (s.pc + 2) h).setPc (zextAddr nnn)) := by
  simp only [execCallNnn, dif_neg (show ¬ s.sp.val = 16 by omega)]

theorem execLdVxK_none {s : State} (h : lowestKey s.key = none) (x : Reg) : execLdVxK x s = .next s := by
  simp only [execLdVxK, h]

theorem execLdVxK_some {s : State} {k : Nat} (h : lowestKey s.key = some k) (x : Reg) :
    execLdVxK x s = .next (s.result x (BitVec.ofNat 8 k)) := by
  simp only [execLdVxK, h]

/-! ## The decode error -/

/-- A step on a word the decoder rejects (30_encoding R54). -/
theorem step_of_reject {s : State} {e : Reject} (h : decode (fetch16 s.mem s.pc) = .error e) :
    step s = .next (s.reportAndSkip (.decodeError (fetch16 s.mem s.pc) s.pc)) := by
  simp only [step, h, decodeErrorStep]

end Sys2Proof.Machine
end

