-- ==== Sys2Proof/Laws/Decode.lean ====
section
/-! SUPPORT. The fields of a word and of an encoded word as numbers (30_encoding R47, R48), so that encoding and decoding
are compared by arithmetic. -/

namespace Sys2Proof

/-! ## The fields of any word -/

theorem opClass_eq (op : Word) : opClass op = op.toNat / 4096 := by
  have := op.isLt
  simp only [opClass, BitVec.extractLsb'_toNat, Nat.shiftRight_eq_div_pow]
  omega

theorem opX_val (op : Word) : (opX op).val = op.toNat / 256 % 16 := by
  simp [opX, BitVec.extractLsb', Nat.shiftRight_eq_div_pow]

theorem opY_val (op : Word) : (opY op).val = op.toNat / 16 % 16 := by
  simp [opY, BitVec.extractLsb', Nat.shiftRight_eq_div_pow]

theorem opN_toNat (op : Word) : (opN op).toNat = op.toNat % 16 := by
  simp [opN]

theorem opKK_toNat (op : Word) : (opKK op).toNat = op.toNat % 256 := by
  simp [opKK]

theorem opNNN_toNat (op : Word) : (opNNN op).toNat = op.toNat % 4096 := by
  simp [opNNN]

/-! ## Encoded words -/

theorem encodeA_toNat {cls : Nat} (h : cls < 16) (nnn : BitVec 12) :
    (encodeA cls nnn).toNat = cls * 4096 + nnn.toNat := by
  have := nnn.isLt
  simp only [encodeA, BitVec.toNat_ofNat]
  omega

theorem encodeXK_toNat {cls : Nat} (h : cls < 16) (x : Reg) (kk : Byte) :
    (encodeXK cls x kk).toNat = cls * 4096 + x.val * 256 + kk.toNat := by
  have := kk.isLt
  have := x.isLt
  simp only [encodeXK, BitVec.toNat_ofNat]
  omega

theorem encodeXY_toNat {cls : Nat} (h : cls < 16) (x y : Reg) (n : BitVec 4) :
    (encodeXY cls x y n).toNat = cls * 4096 + x.val * 256 + y.val * 16 + n.toNat := by
  have := n.isLt
  have := x.isLt
  have := y.isLt
  simp only [encodeXY, BitVec.toNat_ofNat]
  omega

/-- The class and the literal of a word of format A. -/
theorem fields_encodeA {cls : Nat} (h : cls < 16) (nnn : BitVec 12) :
    opClass (encodeA cls nnn) = cls ∧ opNNN (encodeA cls nnn) = nnn := by
  have := nnn.isLt
  refine ⟨by rw [opClass_eq, encodeA_toNat h]; omega, BitVec.eq_of_toNat_eq ?_⟩
  rw [opNNN_toNat, encodeA_toNat h]
  omega

/-- The class, the register and the low byte of a word of format XK or XS. -/
theorem fields_encodeXK {cls : Nat} (h : cls < 16) (x : Reg) (kk : Byte) :
    opClass (encodeXK cls x kk) = cls ∧ opX (encodeXK cls x kk) = x ∧ opKK (encodeXK cls x kk) = kk := by
  have := kk.isLt
  have := x.isLt
  refine ⟨by rw [opClass_eq, encodeXK_toNat h]; omega, Fin.ext ?_, BitVec.eq_of_toNat_eq ?_⟩
  · rw [opX_val, encodeXK_toNat h]
    omega
  · rw [opKK_toNat, encodeXK_toNat h]
    omega

/-- The class, the registers and the low nibble of a word of format XY or XYN. -/
theorem fields_encodeXY {cls : Nat} (h : cls < 16) (x y : Reg) (n : BitVec 4) :
    opClass (encodeXY cls x y n) = cls ∧ opX (encodeXY cls x y n) = x ∧ opY (encodeXY cls x y n) = y ∧
      opN (encodeXY cls x y n) = n := by
  have := n.isLt
  have := x.isLt
  have := y.isLt
  refine ⟨by rw [opClass_eq, encodeXY_toNat h]; omega, Fin.ext ?_, Fin.ext ?_, BitVec.eq_of_toNat_eq ?_⟩
  · rw [opX_val, encodeXY_toNat h]
    omega
  · rw [opY_val, encodeXY_toNat h]
    omega
  · rw [opN_toNat, encodeXY_toNat h]
    omega

/-- A word is the word its fields encode, in each format. -/
theorem encodeA_fields (op : Word) : encodeA (opClass op) (opNNN op) = op := by
  have := op.isLt
  apply BitVec.eq_of_toNat_eq
  rw [encodeA_toNat (by rw [opClass_eq]; omega), opClass_eq, opNNN_toNat]
  omega

theorem encodeXK_fields (op : Word) : encodeXK (opClass op) (opX op) (opKK op) = op := by
  have := op.isLt
  apply BitVec.eq_of_toNat_eq
  rw [encodeXK_toNat (by rw [opClass_eq]; omega), opClass_eq, opX_val, opKK_toNat]
  omega

theorem encodeXY_fields (op : Word) : encodeXY (opClass op) (opX op) (opY op) (opN op) = op := by
  have := op.isLt
  apply BitVec.eq_of_toNat_eq
  rw [encodeXY_toNat (by rw [opClass_eq]; omega), opClass_eq, opX_val, opY_val, opN_toNat]
  omega

/-! ## The masks of the opcode table (30_encoding R52) -/

/-- What a row's mask F000 leaves of a word. -/
theorem and_F000 (op : Word) : (op &&& (0xF000 : Word)).toNat = op.toNat / 4096 * 4096 := by
  have h : op &&& (0xF000 : Word) = (op >>> 12) <<< 12 := by
    ext j hj
    interval_cases j <;> simp
  have := op.isLt
  rw [h]
  simp only [BitVec.toNat_shiftLeft, Nat.shiftLeft_eq, BitVec.toNat_ushiftRight, Nat.shiftRight_eq_div_pow]
  omega

/-- What a row's mask F00F leaves of a word. -/
theorem and_F00F (op : Word) : (op &&& (0xF00F : Word)).toNat = op.toNat / 4096 * 4096 + op.toNat % 16 := by
  have h : op &&& (0xF00F : Word) = (op &&& (0xF000 : Word)) + (op &&& (0x000F : Word)) := by
    rw [BitVec.add_eq_or_of_and_eq_zero] <;> ext j hj <;> interval_cases j <;> simp
  have e : (op &&& (0x000F : Word)).toNat = op.toNat % 16 := by
    rw [BitVec.toNat_and]
    exact Nat.and_two_pow_sub_one_eq_mod _ 4
  have := op.isLt
  rw [h, BitVec.toNat_add, and_F000, e]
  omega

/-- What a row's mask F0FF leaves of a word. -/
theorem and_F0FF (op : Word) : (op &&& (0xF0FF : Word)).toNat = op.toNat / 4096 * 4096 + op.toNat % 256 := by
  have h : op &&& (0xF0FF : Word) = (op &&& (0xF000 : Word)) + (op &&& (0x00FF : Word)) := by
    rw [BitVec.add_eq_or_of_and_eq_zero] <;> ext j hj <;> interval_cases j <;> simp
  have e : (op &&& (0x00FF : Word)).toNat = op.toNat % 256 := by
    rw [BitVec.toNat_and]
    exact Nat.and_two_pow_sub_one_eq_mod _ 8
  have := op.isLt
  rw [h, BitVec.toNat_add, and_F000, e]
  omega

/-- A row selects a word when the masked word is the row's pattern, as numbers. -/
theorem Row.selects_iff (r : Row) (op : Word) : r.selects op = true ↔ (op &&& r.mask).toNat = r.pattern.toNat := by
  simp [Row.selects, BitVec.toNat_eq]

/-! ## Bytes of a word -/

/-- The two bytes of a word, put together again (20_memory R34). -/
@[simp] theorem wordOfBytes_bytes (op : Word) : wordOfBytes (highByte op) (lowByte op) = op := by
  have := op.isLt
  apply BitVec.eq_of_toNat_eq
  simp [wordOfBytes, highByte, lowByte, Nat.shiftRight_eq_div_pow]
  omega

end Sys2Proof
end

