-- ==== Sys2Proof/Laws/Display.lean ====
section
/-! SUPPORT. What the sprite compositor does to each pixel, and when it collides (43_display R94), from one pixel to one
row to the whole blit. -/

namespace Sys2Proof.Machine

/-! ## Pixels -/

theorem pixelIndex_lt {px py : Nat} (hx : px < 64) (hy : py < 32) : pixelIndex px py < 2048 := by
  simp only [pixelIndex, Config.displayWidth]
  omega

theorem pixelIndex_inj {px py qx qy : Nat} (hx : px < 64) (hx' : qx < 64) :
    pixelIndex px py = pixelIndex qx qy ↔ px = qx ∧ py = qy := by
  simp only [pixelIndex, Config.displayWidth]
  omega

/-- Displays whose 2048 pixels agree are equal (10_state R18). -/
theorem display_ext {d d' : Display} (h : ∀ px < 64, ∀ py < 32, pixel d px py = pixel d' px py) : d = d' := by
  apply BitVec.eq_of_getLsbD_eq
  intro k hk
  have := h (k % 64) (Nat.mod_lt _ (by decide)) (k / 64) (by omega)
  simp only [pixel, pixelIndex, Config.displayWidth] at this
  rwa [Nat.div_add_mod'] at this

/-- Every pixel after one exclusive-or. -/
theorem pixel_xorPixel (d : Display) {px py qx qy : Nat} (bit : Bool) (hx : px < 64) (hy : py < 32) (hx' : qx < 64) :
    pixel (xorPixel d px py bit) qx qy = (pixel d qx qy ^^ (bit && decide (px = qx ∧ py = qy))) := by
  have hlt := pixelIndex_lt hx hy
  cases bit with
  | false => simp [xorPixel, pixel]
  | true =>
    simp only [xorPixel, pixel, if_true, BitVec.getLsbD_xor, BitVec.getLsbD_twoPow, hlt, decide_true, Bool.true_and,
      pixelIndex_inj hx hx']

/-! ## One pixel, drawn twice -/

/-- Whatever the definition of a draw: one that flips the pixel under its 1 bit (43_display R94) and collides if and only if
that pixel was set (R96) does not collide on every second draw, as the last clause of R95 has it (log 24). -/
theorem no_draw_meets_r94_r96_and_r95_last_clause (draw : Display → Display × Bool)
    (flips : ∀ d, (draw d).1 = xorPixel d 0 0 true) (collides : ∀ d, (draw d).2 = true ↔ pixel d 0 0 = true) :
    ¬ ∀ d, (draw (draw d).1).2 = true := by
  intro h
  have clear := (collides _).mp (h (xorPixel 0 0 0 true))
  rw [flips] at clear
  iterate 2 rw [pixel_xorPixel _ _ (by decide) (by decide) (by decide)] at clear
  simp [pixel] at clear

/-! ## One row -/

/-- A 1 bit of the sprite row `b`, drawn as row number `row`, falls on a pixel from one of its first `n` columns. -/
def rowCovers (vx vy row : Nat) (b : Byte) (n px py : Nat) : Prop :=
  ∃ col < n, (vx + col) % 64 = px ∧ (vy + row) % 32 = py ∧ spriteBit b col = true

theorem rowCovers_succ (vx vy row : Nat) (b : Byte) (n px py : Nat) :
    rowCovers vx vy row b (n + 1) px py ↔
      rowCovers vx vy row b n px py ∨ (spriteBit b n = true ∧ (vx + n) % 64 = px ∧ (vy + row) % 32 = py) := by
  simp only [rowCovers, Nat.lt_succ_iff_lt_or_eq]
  constructor
  · rintro ⟨c, hc | rfl, h⟩
    · exact Or.inl ⟨c, hc, h⟩
    · exact Or.inr ⟨h.2.2, h.1, h.2.1⟩
  · rintro (⟨c, hc, h⟩ | h)
    · exact ⟨c, Or.inl hc, h⟩
    · exact ⟨n, Or.inr rfl, h.2.1, h.2.2, h.1⟩

/-- No two of the eight columns of a row are the same pixel. -/
theorem not_rowCovers_column (vx vy row : Nat) (b : Byte) {n : Nat} (hn : n < 8) (py : Nat) :
    ¬ rowCovers vx vy row b n ((vx + n) % 64) py := by
  rintro ⟨c, hc, h, -⟩
  omega

/-- The first `n` columns of a row: the pixels flipped, and the collision. -/
theorem blitColumns_spec (vx vy row : Nat) (b : Byte) (d : Display × Bool) (n : Nat) (hn : n ≤ 8) :
    (∀ px < 64, ∀ py < 32, (pixel ((List.range n).foldl (blitPixel vx vy row b) d).1 px py ≠ pixel d.1 px py ↔
      rowCovers vx vy row b n px py)) ∧
    (((List.range n).foldl (blitPixel vx vy row b) d).2 = true ↔
      d.2 = true ∨ ∃ px < 64, ∃ py < 32, rowCovers vx vy row b n px py ∧ pixel d.1 px py = true) := by
  induction n with
  | zero => simp [rowCovers]
  | succ n ih =>
    obtain ⟨ih1, ih2⟩ := ih (by omega)
    rw [List.range_succ, List.foldl_append]
    simp only [List.foldl_cons, List.foldl_nil]
    generalize (List.range n).foldl (blitPixel vx vy row b) d = e at ih1 ih2 ⊢
    have hx : (vx + n) % 64 < 64 := Nat.mod_lt _ (by decide)
    have hy : (vy + row) % 32 < 32 := Nat.mod_lt _ (by decide)
    have hnew := not_rowCovers_column vx vy row b (show n < 8 by omega) ((vy + row) % 32)
    have hold : pixel e.1 ((vx + n) % 64) ((vy + row) % 32) = pixel d.1 ((vx + n) % 64) ((vy + row) % 32) := by
      by_contra h
      exact hnew ((ih1 _ hx _ hy).mp h)
    constructor
    · intro px hpx py hpy
      rw [rowCovers_succ]
      simp only [blitPixel, Config.displayWidth, Config.displayHeight]
      rw [pixel_xorPixel _ _ hx hy hpx]
      by_cases h : (vx + n) % 64 = px ∧ (vy + row) % 32 = py
      · obtain ⟨rfl, rfl⟩ := h
        rw [hold]
        cases spriteBit b n <;> simp [hnew]
      · have := ih1 px hpx py hpy
        simp [h, ← this]
    · simp only [blitPixel, Config.displayWidth, Config.displayHeight, Bool.or_eq_true, Bool.and_eq_true, ih2, hold]
      constructor
      · rintro ((h | ⟨px, hpx, py, hpy, h, h'⟩) | ⟨h, h'⟩)
        · exact Or.inl h
        · exact Or.inr ⟨px, hpx, py, hpy, (rowCovers_succ ..).mpr (Or.inl h), h'⟩
        · exact Or.inr ⟨_, hx, _, hy, (rowCovers_succ ..).mpr (Or.inr ⟨h', rfl, rfl⟩), h⟩
      · rintro (h | ⟨px, hpx, py, hpy, h, h'⟩)
        · exact Or.inl (Or.inl h)
        · rcases (rowCovers_succ ..).mp h with hc | ⟨hb, rfl, rfl⟩
          · exact Or.inl (Or.inr ⟨px, hpx, py, hpy, hc, h'⟩)
          · exact Or.inr ⟨h', hb⟩

/-- One row: the pixels flipped, and the collision. -/
theorem blitRow_spec (vx vy row : Nat) (b : Byte) (d : Display × Bool) :
    (∀ px < 64, ∀ py < 32, (pixel (blitRow vx vy row b d).1 px py ≠ pixel d.1 px py ↔
      rowCovers vx vy row b 8 px py)) ∧
    ((blitRow vx vy row b d).2 = true ↔
      d.2 = true ∨ ∃ px < 64, ∃ py < 32, rowCovers vx vy row b 8 px py ∧ pixel d.1 px py = true) :=
  blitColumns_spec vx vy row b d 8 (Nat.le_refl 8)

/-! ## The whole sprite -/

/-- A 1 bit of a sprite, whose rows are numbered from `row` on, falls on a pixel. -/
def spriteCovers (vx vy row : Nat) (bs : List Byte) (px py : Nat) : Prop :=
  ∃ k, ∃ h : k < bs.length, rowCovers vx vy (row + k) bs[k] 8 px py

theorem spriteCovers_cons (vx vy row : Nat) (b : Byte) (bs : List Byte) (px py : Nat) :
    spriteCovers vx vy row (b :: bs) px py ↔
      rowCovers vx vy row b 8 px py ∨ spriteCovers vx vy (row + 1) bs px py := by
  constructor
  · rintro ⟨k, hk, h⟩
    cases k with
    | zero => exact Or.inl h
    | succ k => exact Or.inr ⟨k, by simpa using hk, by rwa [show row + 1 + k = row + (k + 1) by omega]⟩
  · rintro (h | ⟨k, hk, h⟩)
    · exact ⟨0, by simp, h⟩
    · exact ⟨k + 1, by simpa using hk, by rwa [show row + (k + 1) = row + 1 + k by omega]⟩

/-- No row of a sprite of fewer than 32 rows falls on the pixels of another. -/
theorem not_spriteCovers_row {vx vy row px py : Nat} {b : Byte} {bs : List Byte} (hlen : bs.length < 32)
    (h : rowCovers vx vy row b 8 px py) : ¬ spriteCovers vx vy (row + 1) bs px py := by
  rintro ⟨k, hk, c, -, -, hy, -⟩
  obtain ⟨c', -, -, hy', -⟩ := h
  omega

/-- Some rows: the pixels flipped, and the collision. -/
theorem blitRows_spec (vx vy : Nat) (bs : List Byte) (row : Nat) (d : Display × Bool) (hlen : bs.length ≤ 32) :
    (∀ px < 64, ∀ py < 32, (pixel (blitRows vx vy row bs d).1 px py ≠ pixel d.1 px py ↔
      spriteCovers vx vy row bs px py)) ∧
    ((blitRows vx vy row bs d).2 = true ↔
      d.2 = true ∨ ∃ px < 64, ∃ py < 32, spriteCovers vx vy row bs px py ∧ pixel d.1 px py = true) := by
  induction bs generalizing row d with
  | nil => simp [blitRows, spriteCovers]
  | cons b bs ih =>
    simp only [List.length_cons] at hlen
    obtain ⟨ih1, ih2⟩ := ih (row + 1) (blitRow vx vy row b d) (by omega)
    obtain ⟨h1, h2⟩ := blitRow_spec vx vy row b d
    have hdis := fun px py => not_spriteCovers_row (vx := vx) (vy := vy) (row := row) (px := px) (py := py) (b := b)
      (show bs.length < 32 by omega)
    have hkeep : ∀ px < 64, ∀ py < 32, spriteCovers vx vy (row + 1) bs px py →
        pixel (blitRow vx vy row b d).1 px py = pixel d.1 px py := by
      intro px hpx py hpy h
      by_contra hne
      exact hdis px py ((h1 px hpx py hpy).mp hne) h
    simp only [blitRows]
    constructor
    · intro px hpx py hpy
      rw [spriteCovers_cons]
      by_cases hs : spriteCovers vx vy (row + 1) bs px py
      · rw [← hkeep px hpx py hpy hs]
        simp [hs, (ih1 px hpx py hpy).mpr hs]
      · have e : pixel (blitRows vx vy (row + 1) bs (blitRow vx vy row b d)).1 px py =
            pixel (blitRow vx vy row b d).1 px py := by
          by_contra hne
          exact hs ((ih1 px hpx py hpy).mp hne)
        rw [e, h1 px hpx py hpy]
        simp [hs]
    · rw [ih2, h2]
      constructor
      · rintro ((h | ⟨px, hpx, py, hpy, h, h'⟩) | ⟨px, hpx, py, hpy, h, h'⟩)
        · exact Or.inl h
        · exact Or.inr ⟨px, hpx, py, hpy, (spriteCovers_cons ..).mpr (Or.inl h), h'⟩
        · exact Or.inr ⟨px, hpx, py, hpy, (spriteCovers_cons ..).mpr (Or.inr h), hkeep px hpx py hpy h ▸ h'⟩
      · rintro (h | ⟨px, hpx, py, hpy, h, h'⟩)
        · exact Or.inl (Or.inl h)
        · rcases (spriteCovers_cons ..).mp h with h | h
          · exact Or.inl (Or.inr ⟨px, hpx, py, hpy, h, h'⟩)
          · exact Or.inr ⟨px, hpx, py, hpy, h, (hkeep px hpx py hpy h).symm ▸ h'⟩

/-- `drawSprite` (43_display R94): the pixels flipped are those a 1 bit falls on, and it collides exactly when one of
them was set. -/
theorem blit_spec (vx vy : Nat) (bs : List Byte) (d : Display) (hlen : bs.length ≤ 32) :
    (∀ px < 64, ∀ py < 32, (pixel (blit vx vy bs d).1 px py ≠ pixel d px py ↔ spriteCovers vx vy 0 bs px py)) ∧
    ((blit vx vy bs d).2 = true ↔
      ∃ px < 64, ∃ py < 32, spriteCovers vx vy 0 bs px py ∧ pixel d px py = true) := by
  have := blitRows_spec vx vy bs 0 (d, false) hlen
  simpa [blit] using this

end Sys2Proof.Machine
end

