-- ==== Sys2Proof/Laws/Memory.lean ====
section
/-! SUPPORT. The laws of memory: a read after a write, what a write leaves alone, and that every memory operation keeps
the canonical form. -/

namespace Sys2Proof.Machine

theorem a12_lt (a : Nat) : a12 a < 4096 := Nat.mod_lt _ (by decide)

/-! ## One cell -/

theorem Memory.lookup_cons (a : Nat) (b : Byte) (m : Memory) (c : Nat) :
    Memory.lookup (Memory.cons a b m) c =
      if b = resetByte a then Memory.lookup m c else if c = a then b else Memory.lookup m c := by
  unfold Memory.cons
  split <;> simp [Memory.lookup]

/-- A write leaves every other address alone, in any memory. -/
theorem Memory.lookup_store_other {a c : Nat} (h : c ≠ a) (b : Byte) (m : Memory) :
    Memory.lookup (Memory.store m a b) c = Memory.lookup m c := by
  induction m with
  | nil => simp [Memory.store, Memory.lookup_cons, h]
  | cons p m ih =>
    obtain ⟨k, d⟩ := p
    unfold Memory.store
    split
    · simp [Memory.lookup_cons, h]
    · split
      · subst_vars; simp [Memory.lookup_cons, Memory.lookup, h]
      · simp [Memory.lookup, ih]

/-- An address below the first listed one reads as the reset contents. -/
theorem Memory.lookup_below {lo a : Nat} {m : Memory} (hm : Memory.wfFrom lo m = true) (h : a < lo) :
    Memory.lookup m a = resetByte a := by
  induction m generalizing lo with
  | nil => rfl
  | cons p m ih =>
    obtain ⟨k, d⟩ := p
    simp only [Memory.wfFrom, Bool.and_eq_true, decide_eq_true_eq] at hm
    have hk : a ≠ k := by omega
    simp only [Memory.lookup, hk, if_false]
    exact ih hm.2 (by omega)

theorem Memory.wfFrom_mono {lo lo' : Nat} {m : Memory} (h : lo' ≤ lo) (hm : Memory.wfFrom lo m = true) :
    Memory.wfFrom lo' m = true := by
  cases m with
  | nil => rfl
  | cons p m =>
    obtain ⟨k, d⟩ := p
    simp only [Memory.wfFrom, Bool.and_eq_true, decide_eq_true_eq] at hm ⊢
    exact ⟨⟨⟨by omega, hm.1.1.2⟩, hm.1.2⟩, hm.2⟩

/-- A write is read back, in a memory in canonical form. -/
theorem Memory.lookup_store_same {lo a : Nat} {m : Memory} (hm : Memory.wfFrom lo m = true) (b : Byte) :
    Memory.lookup (Memory.store m a b) a = b := by
  induction m generalizing lo with
  | nil => simp +contextual [Memory.store, Memory.lookup_cons, Memory.lookup]
  | cons p m ih =>
    obtain ⟨k, d⟩ := p
    have hm' := hm
    simp only [Memory.wfFrom, Bool.and_eq_true, decide_eq_true_eq] at hm'
    unfold Memory.store
    split
    · rename_i hlt
      rw [Memory.lookup_cons]
      split
      · rename_i hb
        have hk : a ≠ k := by omega
        simp only [Memory.lookup, hk, if_false, hb]
        exact Memory.lookup_below hm'.2 (by omega)
      · simp
    · split
      · rename_i hk
        rw [Memory.lookup_cons]
        split
        · rename_i hb
          rw [hb]
          exact Memory.lookup_below hm'.2 (by omega)
        · simp
      · rename_i hk
        simp only [Memory.lookup, hk, if_false]
        exact ih hm'.2

theorem Memory.wfFrom_cons {lo a : Nat} {m : Memory} (hlo : lo ≤ a) (ha : a < 4096)
    (hm : Memory.wfFrom (a + 1) m = true) (b : Byte) : Memory.wfFrom lo (Memory.cons a b m) = true := by
  unfold Memory.cons
  split
  · exact Memory.wfFrom_mono (by omega) hm
  · rename_i hb
    simp [Memory.wfFrom, hlo, ha, hb, hm]

theorem Memory.wfFrom_store {lo a : Nat} {m : Memory} (hlo : lo ≤ a) (ha : a < 4096)
    (hm : Memory.wfFrom lo m = true) (b : Byte) : Memory.wfFrom lo (Memory.store m a b) = true := by
  induction m generalizing lo with
  | nil => exact Memory.wfFrom_cons hlo ha rfl b
  | cons p m ih =>
    obtain ⟨k, d⟩ := p
    have hm' := hm
    simp only [Memory.wfFrom, Bool.and_eq_true, decide_eq_true_eq] at hm'
    unfold Memory.store
    split
    · rename_i hlt
      refine Memory.wfFrom_cons hlo ha ?_ b
      simp only [Memory.wfFrom, Bool.and_eq_true, decide_eq_true_eq]
      exact ⟨⟨⟨by omega, hm'.1.1.2⟩, hm'.1.2⟩, hm'.2⟩
    · split
      · rename_i hk
        subst hk
        exact Memory.wfFrom_cons hlo ha hm'.2 b
      · rename_i hlt hk
        simp only [Memory.wfFrom, Bool.and_eq_true, decide_eq_true_eq]
        exact ⟨⟨⟨hm'.1.1.1, hm'.1.1.2⟩, hm'.1.2⟩, ih (by omega) hm'.2⟩

/-! ## The byte accesses of the spec -/

/-- A write is read back at every address that wraps to the same place. -/
theorem memRead_memWrite_same {m : Memory} (hm : Memory.wf m = true) {a c : Nat} (h : a12 c = a12 a) (b : Byte) :
    memRead (memWrite m a b) c = b := by
  unfold memRead memWrite
  rw [h]
  exact Memory.lookup_store_same hm b

theorem memRead_memWrite_other (m : Memory) {a c : Nat} (h : a12 c ≠ a12 a) (b : Byte) :
    memRead (memWrite m a b) c = memRead m c :=
  Memory.lookup_store_other h b m

theorem memWrite_wf {m : Memory} (hm : Memory.wf m = true) (a : Nat) (b : Byte) :
    Memory.wf (memWrite m a b) = true :=
  Memory.wfFrom_store (Nat.zero_le _) (a12_lt a) hm b

/-- Reads wrap modulo 4096 (20_memory R32). -/
theorem memRead_wraps (m : Memory) (a : Nat) : memRead m (a12 a) = memRead m a := by
  simp [memRead, a12]

/-! ## Sequences of bytes -/

theorem storeBytes_wf {m : Memory} (hm : Memory.wf m = true) (a : Nat) (bs : List Byte) :
    Memory.wf (storeBytes m a bs) = true := by
  induction bs generalizing m a with
  | nil => exact hm
  | cons b bs ih => exact ih (memWrite_wf hm a b) (a + 1)

/-- A sequence of writes leaves every address outside it alone. -/
theorem memRead_storeBytes_other (m : Memory) (a : Nat) (bs : List Byte) (c : Nat)
    (h : ∀ k, k < bs.length → a12 c ≠ a12 (a + k)) : memRead (storeBytes m a bs) c = memRead m c := by
  induction bs generalizing m a with
  | nil => rfl
  | cons b bs ih =>
    rw [storeBytes, ih]
    · exact memRead_memWrite_other m (h 0 (by simp)) b
    · intro k hk
      have := h (k + 1) (by simp; omega)
      rwa [show a + 1 + k = a + (k + 1) by omega]

/-- A sequence of at most 4096 writes is read back byte by byte. -/
theorem memRead_storeBytes_same {m : Memory} (hm : Memory.wf m = true) (a : Nat) (bs : List Byte)
    (hlen : bs.length ≤ 4096) (k : Nat) (hk : k < bs.length) :
    memRead (storeBytes m a bs) (a + k) = bs[k] := by
  induction bs generalizing m a k with
  | nil => simp at hk
  | cons b bs ih =>
    rw [storeBytes]
    cases k with
    | zero =>
      rw [memRead_storeBytes_other]
      · exact memRead_memWrite_same hm rfl b
      · intro j hj
        simp only [List.length_cons] at hlen
        simp only [a12, Config.memSize, Nat.add_zero]
        omega
    | succ k =>
      rw [show a + (k + 1) = a + 1 + k by omega]
      exact ih (memWrite_wf hm a b) (a + 1) (by simp at hlen; omega) k (by simpa using hk)

/-- The default font written to the reset contents leaves no cell: it is what an unlisted address reads as (log 5). -/
theorem storeBytes_default_font : storeBytes [] Config.fontBase Config.font.toList = [] := by decide

@[simp] theorem loadBytes_length (m : Memory) (a n : Nat) : (loadBytes m a n).length = n := by
  simp [loadBytes]

@[simp] theorem loadBytes_getElem (m : Memory) (a n k : Nat) (h : k < (loadBytes m a n).length) :
    (loadBytes m a n)[k] = memRead m (a + k) := by
  simp [loadBytes]

end Sys2Proof.Machine
end

