-- ==== Sys2Proof/Laws/Ops.lean ====
section
/-! SUPPORT. What the shared operations on registers, operands and flags do, said once each. -/

namespace Sys2Proof.Machine

/-! ## Registers -/

/-- The registers after one register write. -/
@[simp] theorem State.readV_writeV (s : State) (r q : Reg) (b : Byte) :
    (s.writeV r b).readV q = if q = r then b else s.readV q := by
  simp only [State.readV, State.writeV, State.setV, Vector.get_eq_getElem, Vector.getElem_set, Fin.ext_iff, eq_comm]

/-- The registers after a result and a flag: the flag is what remains in `VF` (41_load_alu R83). -/
@[simp] theorem State.readV_writeWithFlag (s : State) (x q : Reg) (b f : Byte) :
    (s.writeWithFlag x b f).readV q = if q = 15 then f else if q = x then b else s.readV q := by
  simp [State.writeWithFlag, regF]

/-- A register write changes nothing but the registers. -/
theorem State.writeV_eq (s : State) (r : Reg) (b : Byte) : s.writeV r b = s.setV (s.V.set r.val b r.isLt) := rfl

/-- The registers after a range of registers is written with a list of bytes. -/
theorem State.readV_writeRegs (bs : List Byte) (r : Nat) (s : State) (h : r + bs.length ≤ 16) (q : Reg) :
    (s.writeRegs r bs).readV q =
      if hq : r ≤ q.val ∧ q.val < r + bs.length then bs[q.val - r]'(by omega) else s.readV q := by
  induction bs generalizing r s with
  | nil =>
    simp only [State.writeRegs, List.length_nil, Nat.add_zero]
    rw [dif_neg (by omega)]
  | cons b bs ih =>
    simp only [List.length_cons] at h
    rw [State.writeRegs, ih (r + 1) _ (by omega), State.readV_writeV]
    have hv : (Fin.ofNat 16 r).val = r := by simp [Fin.ofNat]; omega
    by_cases h1 : r + 1 ≤ q.val ∧ q.val < r + 1 + bs.length
    · rw [dif_pos h1, dif_pos (by simp; omega)]
      have : q.val - r = (q.val - (r + 1)) + 1 := by omega
      simp [this]
    · rw [dif_neg h1]
      by_cases h2 : q.val = r
      · rw [if_pos (Fin.ext (h2.trans hv.symm)), dif_pos (by simp; omega)]
        simp [h2]
      · rw [if_neg (fun h3 => h2 (by rw [h3, hv])), dif_neg (by simp; omega)]

/-- A range of register writes changes nothing but the registers. -/
theorem State.writeRegs_eq (bs : List Byte) (r : Nat) (s : State) :
    s.writeRegs r bs = s.setV (s.writeRegs r bs).V := by
  induction bs generalizing r s with
  | nil => rfl
  | cons b bs ih =>
    rw [State.writeRegs, ih]
    rfl

/-! ## Operands -/

theorem lowNibble_lt (b : Byte) : lowNibble b < 16 := Nat.mod_lt _ (by decide)

@[simp] theorem zextAddr_toNat (nnn : BitVec 12) : (zextAddr nnn).toNat = nnn.toNat := by
  have := nnn.isLt
  simp [zextAddr, BitVec.toNat_setWidth]
  omega

@[simp] theorem zextByte_toNat (b : Byte) : (zextByte b).toNat = b.toNat := by
  have := b.isLt
  simp [zextByte, BitVec.toNat_setWidth]
  omega

theorem glyphAddr_toNat (b : Byte) : (glyphAddr b).toNat = 0x50 + 5 * lowNibble b := by
  have := lowNibble_lt b
  simp only [glyphAddr, Config.fontBase, BitVec.toNat_ofNat]
  omega

@[simp] theorem regsThrough_length (s : State) (x : Reg) : (regsThrough s x).length = x.val + 1 := by
  simp [regsThrough]

@[simp] theorem regsThrough_getElem (s : State) (x : Reg) (k : Nat) (h : k < (regsThrough s x).length) :
    (regsThrough s x)[k] = s.readV ⟨k, by have := x.isLt; simp at h; omega⟩ := by
  simp [regsThrough, State.readV, Vector.get_eq_getElem]

/-- No key is down exactly when the key wait captures nothing (44_keypad_timers R102). -/
theorem lowestKey_eq_none (key : BitVec 16) : lowestKey key = none ↔ ∀ k < 16, keyDown key k = false := by
  simp [lowestKey]

/-- The captured key is down and no key below it is (44_keypad_timers R102). -/
theorem lowestKey_eq_some {key : BitVec 16} {k : Nat} (h : lowestKey key = some k) :
    k < 16 ∧ keyDown key k = true ∧ ∀ j < k, keyDown key j = false := by
  unfold lowestKey at h
  rw [List.find?_range_eq_some] at h
  simp only [List.mem_range] at h
  exact ⟨h.2.1, h.1, fun j hj => by simpa using h.2.2 j hj⟩

/-! ## Flags -/

/-- A flag value is 0 or 1 (10_state R11). -/
theorem flagByte_zero_or_one (c : Bool) : flagByte c = 0 ∨ flagByte c = 1 := by
  cases c <;> simp [flagByte]

/-- A flag value is 1 exactly when its condition holds. -/
theorem flagByte_eq_one (c : Bool) : flagByte c = 1 ↔ c = true := by
  cases c <;> simp [flagByte]

end Sys2Proof.Machine
end

