-- ==== Sys2Proof/Laws/PerInstr.lean ====
section
/-! SUPPORT. The family of lemmas, one per constructor of `Instr`: the word of an instruction is selected by the
instruction's own row of the opcode table (30_encoding R48, R52). -/

namespace Sys2Proof.Laws.EncodeInRow

/-- The word of `i` matches the row of `i`. -/
def Statement (i : Instr) : Prop := (rowOf i).selects (encode i) = true

/-! A word of each format matches a row whose pattern is the word's own class (and secondary opcode). -/

theorem formatA {cls : Nat} {r : Row} (h : cls < 16) (hm : r.mask = 0xF000) (hp : r.pattern.toNat = cls * 4096)
    (nnn : BitVec 12) : r.selects (encodeA cls nnn) = true := by
  have := nnn.isLt
  rw [Row.selects_iff, hm, hp, and_F000, encodeA_toNat h]
  omega

theorem formatXK {cls : Nat} {r : Row} (h : cls < 16) (hm : r.mask = 0xF000) (hp : r.pattern.toNat = cls * 4096)
    (x : Reg) (kk : Byte) : r.selects (encodeXK cls x kk) = true := by
  have := x.isLt
  have := kk.isLt
  rw [Row.selects_iff, hm, hp, and_F000, encodeXK_toNat h]
  omega

theorem formatXS {cls : Nat} {kk : Byte} {r : Row} (h : cls < 16) (hm : r.mask = 0xF0FF)
    (hp : r.pattern.toNat = cls * 4096 + kk.toNat) (x : Reg) : r.selects (encodeXK cls x kk) = true := by
  have := x.isLt
  have := kk.isLt
  rw [Row.selects_iff, hm, hp, and_F0FF, encodeXK_toNat h]
  omega

theorem formatXY {cls : Nat} {n : BitVec 4} {r : Row} (h : cls < 16) (hm : r.mask = 0xF00F)
    (hp : r.pattern.toNat = cls * 4096 + n.toNat) (x y : Reg) : r.selects (encodeXY cls x y n) = true := by
  have := x.isLt
  have := y.isLt
  have := n.isLt
  rw [Row.selects_iff, hm, hp, and_F00F, encodeXY_toNat h]
  omega

theorem formatXYN {cls : Nat} {r : Row} (h : cls < 16) (hm : r.mask = 0xF000) (hp : r.pattern.toNat = cls * 4096)
    (x y : Reg) (n : BitVec 4) : r.selects (encodeXY cls x y n) = true := by
  have := x.isLt
  have := y.isLt
  have := n.isLt
  rw [Row.selects_iff, hm, hp, and_F000, encodeXY_toNat h]
  omega

/-! One lemma per instruction, in the order of the table. -/

theorem cls : Statement .cls := by
  unfold Statement
  decide
theorem ret : Statement .ret := by
  unfold Statement
  decide
theorem jpNnn (nnn : BitVec 12) : Statement (.jpNnn nnn) := formatA (by decide) rfl rfl nnn
theorem callNnn (nnn : BitVec 12) : Statement (.callNnn nnn) := formatA (by decide) rfl rfl nnn
theorem seVxKk (x : Reg) (kk : Byte) : Statement (.seVxKk x kk) := formatXK (by decide) rfl rfl x kk
theorem sneVxKk (x : Reg) (kk : Byte) : Statement (.sneVxKk x kk) := formatXK (by decide) rfl rfl x kk
theorem seVxVy (x y : Reg) (pad : BitVec 4) : Statement (.seVxVy x y pad) := formatXYN (by decide) rfl rfl x y pad
theorem ldVxKk (x : Reg) (kk : Byte) : Statement (.ldVxKk x kk) := formatXK (by decide) rfl rfl x kk
theorem addVxKk (x : Reg) (kk : Byte) : Statement (.addVxKk x kk) := formatXK (by decide) rfl rfl x kk
theorem ldVxVy (x y : Reg) : Statement (.ldVxVy x y) := formatXY (by decide) rfl rfl x y
theorem orVxVy (x y : Reg) : Statement (.orVxVy x y) := formatXY (by decide) rfl rfl x y
theorem andVxVy (x y : Reg) : Statement (.andVxVy x y) := formatXY (by decide) rfl rfl x y
theorem xorVxVy (x y : Reg) : Statement (.xorVxVy x y) := formatXY (by decide) rfl rfl x y
theorem addVxVy (x y : Reg) : Statement (.addVxVy x y) := formatXY (by decide) rfl rfl x y
theorem subVxVy (x y : Reg) : Statement (.subVxVy x y) := formatXY (by decide) rfl rfl x y
theorem shrVx (x y : Reg) : Statement (.shrVx x y) := formatXY (by decide) rfl rfl x y
theorem subnVxVy (x y : Reg) : Statement (.subnVxVy x y) := formatXY (by decide) rfl rfl x y
theorem shlVx (x y : Reg) : Statement (.shlVx x y) := formatXY (by decide) rfl rfl x y
theorem sneVxVy (x y : Reg) (pad : BitVec 4) : Statement (.sneVxVy x y pad) := formatXYN (by decide) rfl rfl x y pad
theorem ldINnn (nnn : BitVec 12) : Statement (.ldINnn nnn) := formatA (by decide) rfl rfl nnn
theorem jpV0Nnn (nnn : BitVec 12) : Statement (.jpV0Nnn nnn) := formatA (by decide) rfl rfl nnn
theorem rndVxKk (x : Reg) (kk : Byte) : Statement (.rndVxKk x kk) := formatXK (by decide) rfl rfl x kk
theorem drwVxVyN (x y : Reg) (n : Nat) : Statement (.drwVxVyN x y n) := formatXYN (by decide) rfl rfl x y _
theorem skpVx (x : Reg) : Statement (.skpVx x) := formatXS (by decide) rfl rfl x
theorem sknpVx (x : Reg) : Statement (.sknpVx x) := formatXS (by decide) rfl rfl x
theorem ldVxDT (x : Reg) : Statement (.ldVxDT x) := formatXS (by decide) rfl rfl x
theorem ldVxK (x : Reg) : Statement (.ldVxK x) := formatXS (by decide) rfl rfl x
theorem ldDTVx (x : Reg) : Statement (.ldDTVx x) := formatXS (by decide) rfl rfl x
theorem ldSTVx (x : Reg) : Statement (.ldSTVx x) := formatXS (by decide) rfl rfl x
theorem addIVx (x : Reg) : Statement (.addIVx x) := formatXS (by decide) rfl rfl x
theorem ldFVx (x : Reg) : Statement (.ldFVx x) := formatXS (by decide) rfl rfl x
theorem ldBVx (x : Reg) : Statement (.ldBVx x) := formatXS (by decide) rfl rfl x
theorem ldMemIVx (x : Reg) : Statement (.ldMemIVx x) := formatXS (by decide) rfl rfl x
theorem ldVxMemI (x : Reg) : Statement (.ldVxMemI x) := formatXS (by decide) rfl rfl x

end Sys2Proof.Laws.EncodeInRow
end

