-- ==== Sys2Proof/Laws/Timers.lean ====
section
/-! SUPPORT. What a timer tick and the accumulator loop do (60_exceptions R121, R122). -/

namespace Sys2Proof.Machine

theorem timerPeriod_pos : 0 < Config.timerPeriod := by norm_num [Config.timerPeriod]

/-- A timer one tick later, as a number (R121). -/
@[simp] theorem decTimer_toNat (t : Byte) : (decTimer t).toNat = t.toNat - 1 := by
  have := t.isLt
  simp only [decTimer, BitVec.toNat_ofNat]
  omega

@[simp] theorem timerTick_DT (s : State) : (timerTick s).DT = decTimer s.DT := rfl
@[simp] theorem timerTick_ST (s : State) : (timerTick s).ST = decTimer s.ST := rfl
@[simp] theorem timerTick_acc (s : State) : (timerTick s).acc = s.acc := rfl
@[simp] theorem timerTick_mem (s : State) : (timerTick s).mem = s.mem := rfl
@[simp] theorem timerTick_setAcc (s : State) (a : Rat) : timerTick (s.setAcc a) = (timerTick s).setAcc a := rfl

/-- The loop with nothing to take off. -/
theorem drainAcc_le {s : State} (h : s.acc ≤ Config.timerPeriod) (n : Nat) : drainAcc n s = s := by
  cases n with
  | zero => rfl
  | succ n => simp only [drainAcc, if_neg (not_lt.mpr h)]

/-- One turn of the loop (R122). -/
theorem drainAcc_gt {s : State} (h : s.acc > Config.timerPeriod) (n : Nat) :
    drainAcc (n + 1) s = drainAcc n ((timerTick s).setAcc (s.acc - Config.timerPeriod)) := by
  simp only [drainAcc, if_pos h]

/-- A loop that may turn at least as often as whole periods fit leaves at most one period. -/
theorem drainAcc_acc_le (n : Nat) (s : State) (h : s.acc ≤ (n + 1) * Config.timerPeriod) :
    (drainAcc n s).acc ≤ Config.timerPeriod := by
  induction n generalizing s with
  | zero => simpa [drainAcc] using h
  | succ n ih =>
    by_cases hs : s.acc ≤ Config.timerPeriod
    · rwa [drainAcc_le hs]
    · rw [drainAcc_gt (not_le.mp hs)]
      apply ih
      push_cast at h
      simp only [State.setAcc_acc]
      linarith

/-- The loop never takes the accumulator below zero. -/
theorem drainAcc_acc_nonneg (n : Nat) (s : State) (h : 0 ≤ s.acc) : 0 ≤ (drainAcc n s).acc := by
  induction n generalizing s with
  | zero => exact h
  | succ n ih =>
    by_cases hs : s.acc ≤ Config.timerPeriod
    · rwa [drainAcc_le hs]
    · rw [drainAcc_gt (not_le.mp hs)]
      exact ih _ (by simp only [State.setAcc_acc]; linarith [not_le.mp hs])

/-- The loop changes nothing but the timers and the accumulator. -/
theorem drainAcc_eq (n : Nat) (s : State) :
    drainAcc n s = ((s.setDT (drainAcc n s).DT).setST (drainAcc n s).ST).setAcc (drainAcc n s).acc := by
  induction n generalizing s with
  | zero => rfl
  | succ n ih =>
    unfold drainAcc
    split
    · exact ih _
    · rfl

@[simp] theorem drainAcc_mem (n : Nat) (s : State) : (drainAcc n s).mem = s.mem := by rw [drainAcc_eq]; rfl
@[simp] theorem drainAcc_key (n : Nat) (s : State) : (drainAcc n s).key = s.key := by rw [drainAcc_eq]; rfl
@[simp] theorem drainAcc_draws (n : Nat) (s : State) : (drainAcc n s).draws = s.draws := by rw [drainAcc_eq]; rfl

/-- The loop has enough turns: no more than one period is left (R122). -/
theorem drainFuel_enough (a : Rat) : a ≤ (drainFuel a + 1) * Config.timerPeriod := by
  have h1 : a / Config.timerPeriod < ((a / Config.timerPeriod).floor : Rat) + 1 := Int.lt_floor_add_one _
  have h2 : ((a / Config.timerPeriod).floor : Rat) ≤ (drainFuel a : Rat) := by
    have : (a / Config.timerPeriod).floor ≤ ((drainFuel a : Nat) : Int) := Int.self_le_toNat _
    exact_mod_cast this
  rw [← div_le_iff₀ timerPeriod_pos]
  linarith

end Sys2Proof.Machine
end

