-- ==== Sys2Proof/Tests/Slice0.lean ====
section
/-! SUPPORT. The model's own tests. Expected results are the vectors of spec/95_test_vectors.md (their ids stand in the
comments) or worked by hand from the rule named; last come the witnesses: for each statement with hypotheses, a concrete
state and operands that meet them. -/

namespace Sys2Proof.Tests

open Sys2Proof Sys2Proof.Machine Sys2Proof.Safety

/-! ## Helpers -/

/-- The answer is a next state of which `p` holds. -/
def after (a : Answer) (p : State → Bool) : Bool :=
  match a with
  | .next t => p t
  | .fault _ => false
  | .refused _ => false

/-- The answer is a refusal. -/
def isRefused (a : Answer) (r : Refusal) : Bool :=
  match a with
  | .next _ => false
  | .fault _ => false
  | .refused r' => r' == r

theorem exists_next_of_after {a : Answer} {p : State → Bool} (h : after a p = true) : ∃ t, a = .next t ∧ p t = true := by
  unfold after at h
  split at h
  · exact ⟨_, rfl, h⟩
  · cases h
  · cases h

/-- A state with some registers written: pairs of register number and value. -/
def withV (s : State) (l : List (Reg × Byte)) : State := l.foldl (fun s p => s.writeV p.1 p.2) s

/-- A state with some bytes stored from an address on. -/
def withMem (s : State) (a : Nat) (bs : List Byte) : State := s.setMem (storeBytes s.mem a bs)

/-- The bytes from an address on. -/
def bytesAt (s : State) (a n : Nat) : List Byte := loadBytes s.mem a n

/-- The start state of spec/95_test_vectors.md. -/
def start : State := State.reset

/-- One step on the word `w`, placed at `pc`. -/
def stepOn (s : State) (w : Nat) : Answer := step (s.withFetchWord 16 w)

/-- The default font and two executor steps a tick. -/
def twoSteps : Params := ⟨Config.font, 2⟩

/-- Registers 1 and 2 hold `a` and `b`, `VF` the marker 77 (95_test_vectors 2.3). -/
def alu (a b : Byte) : State := withV start [(1, a), (2, b), (15, 0x77)]

/-- `V1` and `VF` after one step on a word. -/
def v1vf (s : State) (w : Nat) (v1 vf : Byte) : Bool :=
  after (stepOn s w) fun t => t.readV 1 == v1 && t.readV 15 == vf && t.pc == 0x202

/-- A display with some pixels set: pairs of column and row. -/
def lit (l : List (Nat × Nat)) : Display := l.foldl (fun d p => xorPixel d p.1 p.2 true) 0

/-! ## Well-formedness: the one check, and an ill-formed term it refuses (30_encoding R49) -/

theorem test_wf_row_count_fifteen : (Instr.drwVxVyN 1 2 15).wellFormed = true := by decide
theorem test_wf_refuses_row_count_sixteen : (Instr.drwVxVyN 1 2 16).wellFormed = false := by decide

/-! ## Decoding: words written from the encodings of 30_encoding R52 (ids E1 to E24) -/

theorem test_decode_system : decode 0b0000000011100000 = .ok .cls ∧ decode 0b0000000011101110 = .ok .ret := by decide

theorem test_decode_addresses :
    decode 0x1ABC = .ok (.jpNnn 0xABC) ∧ decode 0x2200 = .ok (.callNnn 0x200) ∧
    decode 0xA2F0 = .ok (.ldINnn 0x2F0) ∧ decode 0xB300 = .ok (.jpV0Nnn 0x300) := by decide

theorem test_decode_immediates :
    decode 0x3A7F = .ok (.seVxKk 0xA 0x7F) ∧ decode 0x4F00 = .ok (.sneVxKk 0xF 0x00) ∧
    decode 0x6005 = .ok (.ldVxKk 0 0x05) ∧ decode 0x7003 = .ok (.addVxKk 0 0x03) ∧
    decode 0xC10F = .ok (.rndVxKk 1 0x0F) := by decide

theorem test_decode_register_skips :
    decode 0x5120 = .ok (.seVxVy 1 2 0) ∧ decode 0x512F = .ok (.seVxVy 1 2 0xF) ∧
    decode 0x9120 = .ok (.sneVxVy 1 2 0) ∧ decode 0x912C = .ok (.sneVxVy 1 2 0xC) := by decide

theorem test_decode_alu :
    decode 0x8AB0 = .ok (.ldVxVy 0xA 0xB) ∧ decode 0x8AB1 = .ok (.orVxVy 0xA 0xB) ∧
    decode 0x8AB2 = .ok (.andVxVy 0xA 0xB) ∧ decode 0x8AB3 = .ok (.xorVxVy 0xA 0xB) ∧
    decode 0x8AB4 = .ok (.addVxVy 0xA 0xB) ∧ decode 0x8AB5 = .ok (.subVxVy 0xA 0xB) ∧
    decode 0x8AB6 = .ok (.shrVx 0xA 0xB) ∧ decode 0x8AB7 = .ok (.subnVxVy 0xA 0xB) ∧
    decode 0x8ABE = .ok (.shlVx 0xA 0xB) := by decide

theorem test_decode_draw_and_keys :
    decode 0xD125 = .ok (.drwVxVyN 1 2 5) ∧ decode 0xE29E = .ok (.skpVx 2) ∧ decode 0xE2A1 = .ok (.sknpVx 2) := by
  decide

theorem test_decode_misc :
    decode 0xF207 = .ok (.ldVxDT 2) ∧ decode 0xF20A = .ok (.ldVxK 2) ∧ decode 0xF215 = .ok (.ldDTVx 2) ∧
    decode 0xF218 = .ok (.ldSTVx 2) ∧ decode 0xF21E = .ok (.addIVx 2) ∧ decode 0xF229 = .ok (.ldFVx 2) ∧
    decode 0xF233 = .ok (.ldBVx 2) ∧ decode 0xF255 = .ok (.ldMemIVx 2) ∧ decode 0xF265 = .ok (.ldVxMemI 2) := by decide

theorem test_decode_errors_class_0 :
    [0x0000, 0x00E1, 0x00EF, 0x01E0, 0x0123, 0x0FFF].map decode = List.replicate 6 (.error .systemWord) := by decide

theorem test_decode_errors_class_8 :
    [0x8AB8, 0x8AB9, 0x8ABA, 0x8ABB, 0x8ABC, 0x8ABD, 0x8ABF].map decode = List.replicate 7 (.error .aluNibble) := by
  decide

theorem test_decode_errors_class_E :
    [0xE100, 0xE29F, 0xE2A0, 0xE2FF].map decode = List.replicate 4 (.error .keyByte) := by decide

theorem test_decode_errors_class_F :
    [0xF200, 0xF1FF, 0xF266, 0xF275, 0xF285, 0xF230, 0xF23A].map decode = List.replicate 7 (.error .miscByte) := by
  decide

/-- The bytes of a word, high byte first, and what follows them (20_memory R34). -/
theorem test_decode_bytes :
    decodeBytes [0x1A, 0xBC, 0x77] = .ok (.jpNnn 0xABC, [0x77]) ∧ decodeBytes [0x1A] = .error .truncated ∧
    decodeBytes [] = .error .truncated := by decide

theorem test_decode_table_word :
    decodeTableWord 16 0x6005 = some (.ldVxKk 0 0x05) ∧ decodeTableWord 16 0xF1FF = none := by decide

theorem test_encode_alu_and_draw :
    encode (.shlVx 0xA 0xB) = 0x8ABE ∧ encode (.drwVxVyN 1 2 15) = 0xD12F ∧ encode (.sneVxVy 1 2 0xC) = 0x912C := by
  decide

/-! ## Memory -/

/-- A write of what an unlisted address reads as leaves no cell; the font is such (10_state R28; log 5). -/
theorem test_memory_canonical :
    memWrite (memWrite [] 0x300 5) 0x300 0 = [] ∧ memWrite [] 0x50 0xF0 = [] ∧
    memWrite (memWrite [] 0x301 1) 0x1300 2 = [(0x300, 2), (0x301, 1)] := by decide

theorem test_memory_wf_refuses :
    Memory.wf [(5, 1), (5, 2)] = false ∧ Memory.wf [(6, 1), (5, 2)] = false ∧ Memory.wf [(5, 0)] = false ∧
    Memory.wf [(4096, 1)] = false ∧ Memory.wf [(5, 1), (4095, 2)] = true := by decide

/-- C24: the fetch wraps inside the word. -/
theorem test_fetch_wraps :
    after (step (withMem (withMem (start.setPc 0xFFF) 0xFFF [0x60]) 0 [0x07])) (fun t => t.readV 0 == 7 && t.pc == 0x1001)
      = true := by decide

/-! ## Control transfer (ids C1 to C25) -/

theorem test_jp : after (stepOn start 0x1ABC) (fun t => t.pc == 0xABC) = true := by decide
theorem test_jp_odd : after (stepOn start 0x1201) (fun t => t.pc == 0x201 && t.diag == []) = true := by decide

/-- C9: the pushed address is not masked. -/
theorem test_call_at_top :
    after (stepOn (start.setPc 0xFFE) 0x2300)
      (fun t => t.stack.get 0 == 0x1000 && t.sp == 1 && t.pc == 0x300) = true := by decide

/-- C7 -/
theorem test_call_full :
    after (stepOn (start.setSp 16) 0x2200)
      (fun t => t.sp == 16 && t.pc == 0x202 && t.diag == [.stackOverflow 0x200 0x200]) = true := by decide

/-- C5 -/
theorem test_ret :
    after (stepOn (((start.setStack (start.stack.set 0 0x206)).setSp 1).setPc 0x300) 0x00EE)
      (fun t => t.pc == 0x206 && t.sp == 0 && t.diag == []) = true := by decide

/-- C6 -/
theorem test_ret_empty :
    after (stepOn start 0x00EE) (fun t => t.pc == 0x202 && t.sp == 0 && t.diag == [.stackUnderflow 0x200]) = true := by
  decide

/-- C10, C11 -/
theorem test_se_kk :
    (after (stepOn (withV start [(3, 0x2A)]) 0x332A) (fun t => t.pc == 0x204) &&
     after (stepOn (withV start [(3, 0x2B)]) 0x332A) (fun t => t.pc == 0x202)) = true := by decide

/-- C12, C13 -/
theorem test_sne_kk :
    (after (stepOn (withV start [(3, 0x2A)]) 0x432A) (fun t => t.pc == 0x202) &&
     after (stepOn start 0x432A) (fun t => t.pc == 0x204)) = true := by decide

/-- C14, C15, with the ignored nibble set -/
theorem test_se_vy :
    (after (stepOn (alu 7 7) 0x5121) (fun t => t.pc == 0x204) &&
     after (stepOn (alu 7 8) 0x5120) (fun t => t.pc == 0x202)) = true := by decide

/-- C17, C18 -/
theorem test_sne_vy :
    (after (stepOn (alu 7 8) 0x912C) (fun t => t.pc == 0x204) &&
     after (stepOn (alu 7 7) 0x9120) (fun t => t.pc == 0x202)) = true := by decide

/-- C21 -/
theorem test_jp_v0 : after (stepOn (withV start [(0, 0xFF)]) 0xBFFF) (fun t => t.pc == 0x10FE) = true := by decide

/-- C23: `pc` counts modulo 65536. -/
theorem test_pc_wraps :
    after (stepOn (start.setPc 0xFFFE) 0x6005) (fun t => t.readV 0 == 5 && t.pc == 0) = true := by decide

/-- The decode error of 2.1. -/
theorem test_decode_error_step :
    after (stepOn (withV start [(15, 0x77)]) 0x8AB8)
      (fun t => t.pc == 0x202 && t.diag == [.decodeError 0x8AB8 0x200] && t.readV 15 == 0x77) = true := by decide

/-! ## Load, arithmetic, logic, shift, random (2.3) -/

/-- I1, I2 -/
theorem test_ld_kk :
    after (stepOn start 0x6F12) (fun t => t.readV 15 == 0x12 && t.pc == 0x202) = true := by decide

/-- I4, I7 -/
theorem test_add_kk :
    (after (stepOn (withV start [(4, 0xFF), (15, 0x77)]) 0x7401) (fun t => t.readV 4 == 0 && t.readV 15 == 0x77) &&
     after (stepOn (withV start [(15, 0xFE)]) 0x7F03) (fun t => t.readV 15 == 1)) = true := by decide

theorem test_ld_vy : v1vf (alu 0x55 0xAA) 0x8120 0xAA 0x77 = true := by decide
theorem test_or : v1vf (alu 0x7F 0x80) 0x8121 0xFF 0x77 = true := by decide
theorem test_and : v1vf (alu 0xFF 0x01) 0x8122 0x01 0x77 = true := by decide
theorem test_xor : v1vf (alu 0xFF 0x01) 0x8123 0xFE 0x77 = true := by decide
theorem test_add : (v1vf (alu 0x7F 0x01) 0x8124 0x80 0 && v1vf (alu 0xFF 0x01) 0x8124 0 1) = true := by decide
theorem test_sub : (v1vf (alu 0x01 0xFF) 0x8125 0x02 0 && v1vf (alu 0x80 0x80) 0x8125 0 1) = true := by decide
theorem test_shr : v1vf (alu 0x55 0xAA) 0x8126 0x2A 1 = true := by decide
theorem test_subn : (v1vf (alu 0x01 0xFF) 0x8127 0xFE 1 && v1vf (alu 0x7F 0x01) 0x8127 0x82 0) = true := by decide
theorem test_shl : v1vf (alu 0xFF 0x01) 0x812E 0xFE 1 = true := by decide

/-- Destination `VF`, word 8F2n, `VF = F0`, `V2 = 20`: the flag stays. -/
theorem test_flag_over_result :
    ([(0x8F24, 1), (0x8F25, 1), (0x8F26, 0), (0x8F27, 0), (0x8F2E, 1)].all fun p =>
      after (stepOn (withV start [(15, 0xF0), (2, 0x20)]) p.1) fun t => t.readV 15 == p.2) = true := by decide

/-- Source `VF`, word 81Fn, `V1 = 05`, `VF = 03`: the old `VF` is the operand. -/
theorem test_flag_as_source :
    ([(0x81F4, 0x08, 0), (0x81F5, 0x02, 1), (0x81F7, 0xFE, 0)].all fun p =>
      v1vf (withV start [(1, 5), (15, 3)]) p.1 p.2.1 p.2.2) = true := by decide

/-- RND with the drawn byte free: `V1` is the draw and-ed with `kk`, the draw is counted (2.3, "for every r"). -/
theorem test_rnd :
    ∃ t, exec (.rndVxKk 1 0x0F) start = .next t ∧ t.readV 1 = Config.freeByte 0 &&& 0x0F ∧ t.draws = 1 :=
  ⟨_, rfl, rfl, rfl⟩

/-! ## Index, font, BCD, bulk (2.4) -/

/-- M1 -/
theorem test_ld_i : after (stepOn (start.setI 0xFFFF) 0xA2F0) (fun t => t.I == 0x2F0) = true := by decide

/-- M3, M3b -/
theorem test_add_i :
    (after (stepOn (withV (start.setI 0xFFF) [(2, 1), (15, 7)]) 0xF21E) (fun t => t.I == 0x1000 && t.readV 15 == 7) &&
     after (stepOn (withV (start.setI 0xFFFF) [(2, 1)]) 0xF21E) (fun t => t.I == 0)) = true := by decide

/-- M5, M7 -/
theorem test_ld_f :
    (after (stepOn (withV start [(4, 0x09)]) 0xF429) (fun t => t.I == 0x7D) &&
     after (stepOn (withV start [(4, 0x1A)]) 0xF429) (fun t => t.I == 0x82)) = true := by decide

/-- M9 (199), M10 -/
theorem test_ld_b :
    (after (stepOn (withV (start.setI 0x400) [(4, 199)]) 0xF433) (fun t => bytesAt t 0x400 3 == [1, 9, 9]) &&
     after (stepOn (withV (start.setI 0xFFE) [(0, 255)]) 0xF033)
      (fun t => bytesAt t 0xFFE 2 == [2, 5] && bytesAt t 0 1 == [5] && t.I == 0xFFE)) = true := by decide

/-- M11 -/
theorem test_ld_mem :
    after (stepOn (withV (start.setI 0x400) [(0, 1), (1, 2), (2, 3), (3, 0x99)]) 0xF255)
      (fun t => bytesAt t 0x400 4 == [1, 2, 3, 0] && t.I == 0x400) = true := by decide

/-- M15: an instruction overwrites itself and completes. -/
theorem test_ld_mem_over_itself :
    after (stepOn (withV (start.setI 0x200) [(0, 0x12)]) 0xF155)
      (fun t => bytesAt t 0x200 2 == [0x12, 0] && t.pc == 0x202 && fetch16 t.mem 0x200 == 0x1200) = true := by decide

/-- M13 -/
theorem test_ld_from_mem :
    after (stepOn (start.setI 0x50) 0xF465)
      (fun t => (t.V.toList.take 6) == [0xF0, 0x90, 0x90, 0x90, 0xF0, 0] && t.I == 0x50) = true := by decide

/-- M16 -/
theorem test_ld_from_mem_all :
    after (stepOn (withMem (start.setI 0x300) 0x300 [0, 1, 2, 3, 4, 5, 6, 7, 8, 9, 10, 11, 12, 13, 14, 15]) 0xFF65)
      (fun t => t.readV 15 == 15 && t.readV 7 == 7) = true := by decide

/-! ## Display (2.5) -/

/-- W13 -/
theorem test_cls :
    after (stepOn (withV (start.setDisplay (lit [(0, 0), (63, 31)])) [(15, 9)]) 0x00E0)
      (fun t => t.display == 0 && t.readV 15 == 9 && t.pc == 0x202) = true := by decide +kernel

/-- W5 (a collision), W3 (both axes wrap), W7 (no rows, and `VF` is written all the same), W9 (the old `VF` is the
column). -/
theorem test_drw :
    (after (stepOn (withMem ((start.setI 0x300).setDisplay (lit [(0, 0), (5, 0)])) 0x300 [0xF0]) 0xD121)
      (fun t => t.display == lit [(1, 0), (2, 0), (3, 0), (5, 0)] && t.readV 15 == 1) &&
     after (stepOn (withV (withMem (start.setI 0x300) 0x300 [0xC0, 0xC0]) [(1, 0x3F), (2, 0x1F), (15, 7)]) 0xD122)
      (fun t => t.display == lit [(63, 31), (0, 31), (63, 0), (0, 0)] && t.readV 15 == 0) &&
     after (stepOn (withV ((start.setI 0x300).setDisplay (lit [(36, 1)])) [(15, 0x55)]) 0xD120)
      (fun t => t.display == lit [(36, 1)] && t.readV 15 == 0) &&
     after (stepOn (withV (withMem (start.setI 0x300) 0x300 [0x80]) [(15, 3), (2, 1)]) 0xDF21)
      (fun t => t.display == lit [(3, 1)] && t.readV 15 == 0)) = true := by decide +kernel

/-- The index check of 2.5. -/
theorem test_pixel_index : pixelIndex 36 1 = 100 ∧ pixelIndex 63 31 = 2047 := by decide

/-- Worked by hand from R94: with the sprite's one pixel already set, the first draw collides and the second does not,
against the last clause of R95 (log 24). -/
theorem test_drw_twice_on_a_set_pixel :
    after (stepOn (withMem ((start.setI 0x300).setDisplay (lit [(0, 0)])) 0x300 [0x80]) 0xD121) (fun t =>
      t.readV 15 == 1 && t.display == 0 &&
        after (stepOn t 0xD121) fun u => u.readV 15 == 0 && u.display == lit [(0, 0)]) = true := by decide +kernel

/-! ## Keys and timers (2.6, 2.7) -/

/-- K1, K3 -/
theorem test_skp :
    (after (stepOn (withV (setKeyDown 5 start) [(2, 0x15)]) 0xE29E) (fun t => t.pc == 0x204) &&
     after (stepOn (withV start [(2, 0x05)]) 0xE29E) (fun t => t.pc == 0x202)) = true := by decide

/-- K5, K6 -/
theorem test_sknp :
    (after (stepOn (withV (setKeyDown 5 start) [(2, 0xF5)]) 0xE2A1) (fun t => t.pc == 0x202) &&
     after (stepOn (withV start [(2, 0x05)]) 0xE2A1) (fun t => t.pc == 0x204)) = true := by decide

/-- K7: nothing changes at all. -/
theorem test_key_wait_none :
    (let s := (withV start [(2, 0xAA)]).withFetchWord 16 0xF20A
     after (step s) (fun t => t == s)) = true := by decide +kernel

/-- K9, K11 -/
theorem test_key_wait :
    (after (stepOn (setKeyDown 9 (setKeyDown 3 start)) 0xF20A) (fun t => t.readV 2 == 3 && t.pc == 0x202) &&
     after (stepOn (setKeyDown 15 start) 0xF20A) (fun t => t.readV 2 == 15)) = true := by decide

/-- T1 -/
theorem test_ld_vx_dt : after (stepOn (start.setDT 0x1E) 0xF307) (fun t => t.readV 3 == 0x1E) = true := by decide

/-- T4 -/
theorem test_ld_dt :
    after (stepOn (withV (start.setDT 5) [(3, 0xFF)]) 0xF315) (fun t => t.DT == 0xFF && t.ST == 0) = true := by decide

/-- T3 -/
theorem test_ld_st : after (stepOn (withV start [(0, 2)]) 0xF018) (fun t => t.ST == 2 && t.DT == 0) = true := by decide

/-- The setters of 2.6. -/
theorem test_key_setters :
    (setKeyDown 5 start).key = 0x20 ∧ setKeyDown 5 (setKeyDown 5 start) = setKeyDown 5 start ∧
    setKeyUp 5 (setKeyDown 5 start) = start ∧ setKeyDown 16 start = start ∧ setKeyDown (-1) start = start ∧
    setKeyUp 255 start = start := by decide +kernel

/-- A1 and A2 -/
theorem test_advance_waits_on_the_last_period :
    (after (advance 1000 (start.setDT 100)) (fun t => t.DT == 41 && t.acc == 50 / 3) &&
     after (advance 1 ((start.setDT 41).setAcc (50 / 3))) (fun t => t.DT == 40 && t.acc == 1)) = true := by
  decide +kernel

/-- A9: `ST` stops at 0. -/
theorem test_advance_floors :
    after (advance 34 ((start.setDT 10).setST 1)) (fun t => t.DT == 8 && t.ST == 0 && t.acc == 2 / 3) = true := by
  decide +kernel

/-- A negative elapsed time has no meaning (60_exceptions R122; log 16). -/
theorem test_advance_negative : isRefused (advance (-1) start) .negativeElapsedTime = true := by decide

/-! ## Reset and load (2.8) -/

/-- L0, at addresses 0x4F to 0x54 and 0x9B to 0xA0 -/
theorem test_reset_font :
    bytesAt start 0x4F 6 = [0, 0xF0, 0x90, 0x90, 0x90, 0xF0] ∧ bytesAt start 0x9B 6 = [0xF0, 0x80, 0xF0, 0x80, 0x80, 0] := by
  decide

/-- L6 -/
theorem test_reset_op :
    resetOp Config.font ((((setKeyDown 5 start).setDT 9).setSp 3).setDisplay (lit [(1, 1)])) = start := by decide +kernel

/-- R135 with another font, all bytes 11: its 80 bytes and no others are there, and the memory keeps its form. -/
theorem test_reset_other_font :
    (let t := resetOp (Vector.replicate 80 0x11) (start.setI 7)
     bytesAt t 0x4F 3 = [0, 0x11, 0x11] ∧ bytesAt t 0x9E 3 = [0x11, 0x11, 0] ∧ t.I = 0 ∧ Memory.wf t.mem = true) := by
  decide

/-- L1, and the first step of X6 -/
theorem test_load :
    after (load [0x60, 0x05, 0x70, 0x03] 4 (start.setPc 0)) (fun t =>
      bytesAt t 0x200 5 == [0x60, 0x05, 0x70, 0x03, 0] && t.diag == [] &&
        after (step t) fun u => u.readV 0 == 5 && u.pc == 0x202) = true := by decide

/-- L3b: one byte too many is reported. -/
theorem test_load_truncates :
    ∃ t, load (List.replicate 3585 0x11) 3585 start = .next t ∧ t.diag = [.loadTruncation 3585 3584] ∧ t.pc = 0x200 := by
  unfold load
  rw [if_neg (by decide), if_neg (by rw [List.length_replicate]; decide), if_pos (by decide)]
  exact ⟨_, rfl, rfl, rfl⟩

/-- Sizes outside the host's duty (70_reset_and_hazards R137; log 17). -/
theorem test_load_refuses :
    (isRefused (load [] (-1) start) .negativeLoadSize && isRefused (load [1] 2 start) .loadSizeBeyondBuffer) = true := by
  decide

/-- The Tick Driver: two steps, then one advance (60_exceptions R124). -/
theorem test_tick :
    after (tickWith 2 17 (withMem (start.setDT 3) 0x200 [0x60, 0x05, 0x70, 0x03]))
      (fun t => t.readV 0 == 8 && t.pc == 0x204 && t.DT == 2 && t.acc == 1 / 3) = true := by decide +kernel

/-- From reset with nothing placed, the first step is the decode error of the word 0000 (X6, last sentence; log 20). -/
theorem test_first_step_from_reset :
    after (core.step core.reset) (fun t => t.diag == [.decodeError 0x0000 0x200] && t.pc == 0x202) = true := by decide

/-! ## Witnesses: states and operands that meet the hypotheses of the statements, clause by clause

A statement not named here has no hypotheses: it holds of every state and every operand. -/

/-- A state with the word `w` placed at 0x200. -/
def placed (w : Nat) : State := start.withFetchWord 16 w

/-- What the decoder reads at `pc`. -/
def fetched (s : State) : Except Reject Instr := decode (fetch16 s.mem s.pc)

theorem witness_EncodeThenDecode :
    (Instr.drwVxVyN 15 15 15).wellFormed = true ∧ (Instr.drwVxVyN 0 0 0).wellFormed = true ∧
    (Instr.seVxVy 15 0 15).wellFormed = true := by decide

theorem witness_DecodeThenEncode : decode 0xFFFF = .error .miscByte ∧ decode 0xDFFF = .ok (.drwVxVyN 15 15 15) := by decide

theorem witness_OpcodeTableDecides :
    decode 0x9FFF = .ok (.sneVxVy 15 15 15) ∧ rowOf (.sneVxVy 15 15 15) ∈ opcodeRows ∧
    (∃ r ∈ opcodeRows, r.selects 0x9FFF = true) ∧ ∀ r ∈ opcodeRows, r.selects 0x0000 = false := by decide

theorem witness_StepRunsDecodedInstruction : fetched (placed 0x1200) = .ok (.jpNnn 0x200) := by decide

/-- At the top of memory as well, where the two bytes of the word lie at 0xFFF and 0x000. -/
theorem witness_StoredWordIsRun :
    Memory.wf start.mem = true ∧ Memory.wf (start.setPc 0xFFFF).mem = true ∧ (Instr.drwVxVyN 1 2 15).wellFormed = true ∧
    after (stepOn (start.setPc 0xFFFF) 0x1234) (fun t => t.pc == 0x234) = true := by decide

theorem witness_UnmatchedWordIsSkipped :
    (∀ r ∈ opcodeRows, r.selects (fetch16 start.mem start.pc) = false) ∧
    ∃ t, step start = .next t ∧ t.diag = start.diag ++ [.decodeError 0 0x200] := by
  refine ⟨by decide, ?_⟩
  obtain ⟨t, h, ht⟩ := exists_next_of_after test_first_step_from_reset
  simp only [Bool.and_eq_true, beq_iff_eq] at ht
  exact ⟨t, h, ht.1⟩

/-- A step from each case of the statement: a decode error, both jumps, CALL on a full stack and on one that is not, RET
on an empty stack and on one that is not, the key wait with and without a key, a skip, and another instruction. -/
theorem witness_PcOutcomesAreComplete :
    ([start, placed 0x1ABC, placed 0xB300, (placed 0x2300).setSp 16, (placed 0x2300).setSp 15, placed 0x00EE,
      (placed 0x00EE).setSp 16, placed 0xF20A, (placed 0xF20A).setKey 0x8000, placed 0x3000, placed 0x6005].map
        fun s => after (step s) fun _ => true) = List.replicate 11 true ∧
    ([start, placed 0x1ABC, placed 0xB300, placed 0x2300, placed 0x00EE, placed 0xF20A, placed 0x3000,
      placed 0x6005].map fetched) =
      [.error .systemWord, .ok (.jpNnn 0xABC), .ok (.jpV0Nnn 0x300), .ok (.callNnn 0x300), .ok .ret, .ok (.ldVxK 2),
        .ok (.seVxKk 0 0), .ok (.ldVxKk 0 5)] := by decide

/-- At 0x200, and at the last address from which a jump can reach itself. -/
theorem witness_SelfJumpChangesNothing :
    (let s := placed 0x1200
     s.pc.toNat < 4096 ∧ fetch16 s.mem s.pc = 0x1000#16 ||| s.pc) ∧
    (let s := (start.setPc 0xFFF).withFetchWord 16 0x1FFF
     s.pc.toNat < 4096 ∧ fetch16 s.mem s.pc = 0x1000#16 ||| s.pc) := by decide

/-- Both clauses at the ends of the depth: 0, 1 and 16. -/
theorem witness_RetPopsIntoPc :
    start.sp.val = 0 ∧ (0 : Fin 16).val + 1 = (start.setSp 1).sp.val ∧ (15 : Fin 16).val + 1 = (start.setSp 16).sp.val := by
  decide

theorem witness_CallPushesReturnAddress :
    (start.setSp 16).sp.val = 16 ∧ (start.setSp 15).sp.val ≠ 16 ∧ start.sp.val ≠ 16 := by decide

/-- From the empty stack to the full one, and one call on the last free slot. -/
theorem witness_NestedCallsReturn :
    start.sp.val + (List.replicate 15 (0x300 : BitVec 12)).length + 1 ≤ 16 ∧
    (start.setSp 15).sp.val + ([] : List (BitVec 12)).length + 1 ≤ 16 := by decide

/-- For AddSetsCarry, SubtractSetsNotBorrow and ShiftsPutOutOneBit (the clause on `V[x]` has its premise for every register
but 15, the frame for the registers not named), and for FlagWritersLeaveZeroOrOne. -/
theorem witness_FlagWritersLeaveZeroOrOne :
    (14 : Reg) ≠ 15 ∧ (0 : Reg) ≠ 15 ∧ (2 : Reg) ∉ [(14 : Reg), 15] ∧
    ([.addVxVy 1 2, .subVxVy 1 2, .shrVx 1 2, .subnVxVy 1 2, .shlVx 1 2, .drwVxVyN 1 2 15].all fun i =>
      writesFlag i && after (exec i start) fun _ => true) = true := by decide

theorem witness_RegistersChangeOnlyAsNamed :
    (14 : Reg) ∉ writtenRegs (.addVxVy 1 2) ∧ (4 : Reg) ∉ writtenRegs (.ldVxMemI 3) ∧
    (3 : Reg) ∈ writtenRegs (.ldVxMemI 3) ∧ after (exec (.ldVxMemI 3) start) (fun _ => true) = true ∧
    fetched start = .error .systemWord ∧ after (step start) (fun _ => true) = true := by decide

/-- For BcdStoresThreeDigits and BulkStore: memory in canonical form, `I` at both ends of its range, and an address outside
the stored bytes. -/
theorem witness_BcdStoresThreeDigits_and_BulkStore :
    Memory.wf start.mem = true ∧ Memory.wf (start.setI 0xFFFF).mem = true ∧
    (∀ k < 3, a12 0x1000 ≠ a12 (dataAddr (start.setI 0x0FFD) 0 + k)) ∧
    (∀ k < 16, a12 15 ≠ a12 (dataAddr (start.setI 0xFFFF) 0 + k)) ∧ (0 : Reg) ≤ 0 ∧ (15 : Reg) ≤ 15 := by decide

theorem witness_BulkStoreThenLoadRestores : Memory.wf start.mem = true ∧ (0 : Reg) ≤ 15 ∧ (15 : Reg) ≤ 15 := by decide

theorem witness_EqualMemoriesAreEqualData :
    (let m := memWrite (memWrite [] 0xFFF 7) 0 9
     let m' := memWrite (memWrite [] 0 9) 0x1FFF 7
     Memory.wf m = true ∧ Memory.wf m' = true ∧ ∀ a, memRead m a = memRead m' a) := by
  refine ⟨by decide, by decide, fun a => ?_⟩
  rw [show memWrite (memWrite [] 0xFFF 7) 0 9 = memWrite (memWrite [] 0 9) 0x1FFF 7 by decide]

/-- The row count at both ends, and a draw answered for each. -/
theorem witness_DrawFlipsCoveredPixels_and_DrawCollision :
    0 ≤ 15 ∧ 15 ≤ 15 ∧ after (exec (.drwVxVyN 1 2 15) start) (fun _ => true) = true ∧
    after (exec (.drwVxVyN 1 2 0) start) (fun _ => true) = true := by decide

/-- Twice at the same coordinates, with `x = y = 15`: the first draw leaves `VF` at 0, as it was, so the premises hold;
it does not collide, and the second does. -/
theorem witness_DrawTwiceRestores :
    after (exec (.drwVxVyN 15 15 1) (start.setI 0x50)) (fun t =>
      t.readV 15 == (start.setI 0x50).readV 15 && t.readV 15 == 0 &&
        after (exec (.drwVxVyN 15 15 1) t) fun u => u.readV 15 == 1 && u.display == 0) = true := by decide +kernel

theorem witness_KeyWait :
    NoKeyDown start ∧
    (15 < 16 ∧ keyDown (setKeyDown 15 start).key 15 = true ∧ ∀ j < 15, keyDown (setKeyDown 15 start).key j = false) ∧
    (0 < 16 ∧ keyDown (setKeyDown 0 start).key 0 = true ∧ ∀ j < 0, keyDown (setKeyDown 0 start).key j = false) := by
  refine ⟨by unfold NoKeyDown; decide, by decide, by decide⟩

/-- Who writes what: an instruction outside each list, which completes. -/
theorem witness_MemoryAndIndexWriters_and_DisplayAndStackWriters :
    (∃ t, exec (.ldVxKk 1 2) start = .next t) ∧ (∀ x, Instr.ldVxKk 1 2 ≠ .ldBVx x ∧ Instr.ldVxKk 1 2 ≠ .ldMemIVx x) ∧
    (∀ nnn x, Instr.ldVxKk 1 2 ≠ .ldINnn nnn ∧ Instr.ldVxKk 1 2 ≠ .addIVx x ∧ Instr.ldVxKk 1 2 ≠ .ldFVx x) ∧
    (Instr.ldVxKk 1 2 ≠ .cls ∧ ∀ x y n, Instr.ldVxKk 1 2 ≠ .drwVxVyN x y n) ∧
    (Instr.ldVxKk 1 2 ≠ .ret ∧ ∀ nnn, Instr.ldVxKk 1 2 ≠ .callNnn nnn) :=
  ⟨⟨_, rfl⟩, by simp, by simp, by simp, by simp⟩

theorem witness_KeyAndTimerWriters :
    (∃ t, step (placed 0x6005) = .next t) ∧
    (∀ x, fetched (placed 0x6005) ≠ .ok (.ldDTVx x)) ∧ (∀ x, fetched (placed 0x6005) ≠ .ok (.ldSTVx x)) := by
  have h : fetched (placed 0x6005) = .ok (.ldVxKk 0 5) := by decide
  obtain ⟨t, ht, -⟩ := exists_next_of_after
    (show after (step (placed 0x6005)) (fun _ => true) = true by decide)
  exact ⟨⟨t, ht⟩, by simp [h], by simp [h]⟩

/-- Two states that differ in what no step reads, and two that differ in a dead slot; both step. -/
theorem witness_UnreadStateIsInvisible :
    SameButUnread start (((start.setST 7).setAcc 1).setDiag [.stackUnderflow 0]) ∧
    start ≠ (((start.setST 7).setAcc 1).setDiag [.stackUnderflow 0]) ∧ ∃ t, step start = .next t :=
  ⟨rfl, by decide +kernel, _, rfl⟩

theorem witness_DeadStackSlotsAreInvisible :
    SameButDeadSlots (start.setSp 1) ((start.setSp 1).setStack (start.stack.set 1 0x300)) ∧
    start.setSp 1 ≠ (start.setSp 1).setStack (start.stack.set 1 0x300) := by
  refine ⟨⟨rfl, ?_⟩, by decide⟩
  decide

/-- The invariant holds at reset and with the accumulator at the end of its range; every event completes there. -/
theorem witness_StepKeepsInvariant_and_EveryEventKeepsInvariant :
    MachineInv start ∧ MachineInv (start.setAcc Config.timerPeriod) ∧ ¬ MachineInv (start.setAcc 17) ∧
    ¬ MachineInv (start.setMem [(5, 0)]) ∧
    ([.execStep, .timerTick, .advance 17, .reset, .load [1, 2] 1, .tick 17,
      .setKeyDown 15, .setKeyUp 0].all fun e =>
      after (applyEvent twoSteps e start) fun _ => true) = true := by
  decide +kernel

/-- A whole tick of two steps and no elapsed time completes. -/
theorem witness_TickIsStepsThenAdvance : (0 : Rat) ≤ 0 ∧ after (tickWith 2 0 start) (fun _ => true) = true := by decide

/-- The addresses next to the font, and the last of each range. -/
theorem witness_ResetValues :
    (0x4F < 4096 ∧ ¬ (0x50 ≤ 0x4F ∧ 0x4F < 0xA0)) ∧ (0xA0 < 4096 ∧ ¬ (0x50 ≤ 0xA0 ∧ 0xA0 < 0xA0)) ∧
    (0xFFF < 4096 ∧ ¬ (0x50 ≤ 0xFFF ∧ 0xFFF < 0xA0)) ∧ 79 < 80 := by decide

/-- A program of no bytes, one that just fits, one byte too many; an address on each side of the copy. -/
theorem witness_LoadCopiesAndTruncates :
    Memory.wf start.mem = true ∧ 0 ≤ ([] : List Byte).length ∧ 3585 ≤ (List.replicate 3585 (1 : Byte)).length ∧
    0x1FF < 0x200 ∧ 0x200 + min 3583 3584 ≤ 0xFFF ∧ 3583 < min 3584 3584 := by
  refine ⟨rfl, by decide, ?_, by decide, by decide, by decide⟩
  rw [List.length_replicate]

/-- No time at all, and an accumulator at either end. -/
theorem witness_AdvanceCountsTicks :
    (0 : Rat) ≤ 0 ∧ 0 ≤ start.acc ∧ start.acc ≤ Config.timerPeriod ∧
    0 ≤ (start.setAcc Config.timerPeriod).acc ∧ (start.setAcc Config.timerPeriod).acc ≤ Config.timerPeriod := by
  decide +kernel

theorem witness_TimersNeverRise : after (advance 100000 (start.setDT 3)) (fun t => t.DT == 0) = true := by decide +kernel

theorem witness_KeySettersChangeOneBit :
    ¬ ((0 : Int) ≤ -1 ∧ (-1 : Int) ≤ 15) ∧ ¬ ((0 : Int) ≤ 16 ∧ (16 : Int) ≤ 15) ∧
    (15 < 16 ∧ ((15 : Nat) : Int) = 15) ∧ (0 < 16 ∧ ((0 : Nat) : Int) = 0) ∧
    (∀ k, Event.timerTick ≠ .setKeyDown k ∧ Event.timerTick ≠ .setKeyUp k) ∧ Event.timerTick ≠ .reset ∧
    ∃ t, applyEvent twoSteps .timerTick start = .next t :=
  ⟨by decide, by decide, by decide, by decide, by simp, by simp, _, rfl⟩

/-- A step of RND, a step of another instruction, and an event that is neither a step nor a tick. -/
theorem witness_OnlyRandomMovesDraws :
    fetched (placed 0xC10F) = .ok (.rndVxKk 1 0x0F) ∧ (∃ t, step (placed 0xC10F) = .next t) ∧
    fetched (placed 0x1ABC) = .ok (.jpNnn 0xABC) ∧ (∃ t, step (placed 0x1ABC) = .next t) ∧
    (∀ x kk, Instr.jpNnn 0xABC ≠ .rndVxKk x kk) ∧ (∃ t, exec (.jpNnn 0xABC) start = .next t) ∧
    Event.reset ≠ .execStep ∧ (∀ elapsed, Event.reset ≠ .tick elapsed) ∧
    ∃ t, applyEvent Config.params .reset start = .next t :=
  ⟨by decide, ⟨_, rfl⟩, by decide, ⟨_, rfl⟩, by simp, ⟨_, rfl⟩, by decide, by simp, ⟨_, rfl⟩⟩

theorem witness_HostReads : 63 < 64 ∧ 31 < 32 := by decide

end Sys2Proof.Tests
end

section
/-! Control transfer (40_control_flow): what a write of `pc` and a skip change, and the obligations on JP and on
the immediate skips. -/

namespace Sys2Proof.Proofs.ControlFlow

open Sys2Proof.Machine Sys2Proof.Safety

/-! ## The frame of a write of `pc` -/

theorem onlyPc_setPc (s : State) (a : Word) : OnlyPc s (s.setPc a) :=
  have sameRegs : SameRegs s (s.setPc a) := State.setPc_readV s a
  have sameMem : SameMem s (s.setPc a) := fun _ => by rw [State.setPc_mem]
  have sameTimers : SameTimers s (s.setPc a) := ⟨State.setPc_DT s a, State.setPc_ST s a⟩
  have sameBackground : SameBackground s (s.setPc a) :=
    ⟨State.setPc_stack s a, State.setPc_sp s a, State.setPc_key s a, State.setPc_acc s a, State.setPc_diag s a⟩
  ⟨sameRegs, State.setPc_I s a, State.setPc_display s a, sameMem, sameTimers, sameBackground⟩

theorem onlyPc_skipIf (s : State) (c : Bool) : OnlyPc s (s.skipIf c) := onlyPc_setPc s _

/-! ## Skips -/

/-- Where a skip goes when its test decides `p`, as what is added to `pc` (40_control_flow R63, R68). -/
theorem skipIf_pc_eq_add (s : State) {c : Bool} {p : Prop} [Decidable p] (h : c = true ↔ p) :
    (s.skipIf c).pc = s.pc + if p then 4 else 2 := by
  rw [State.skipIf_pc, ← apply_ite (s.pc + ·)]
  simp only [h]

/-- An answer that is a skip on a test deciding `p` adds 4 or 2 to `pc` and changes nothing else; the shape of every
skip instruction (40_control_flow R63 to R66). -/
theorem skip_changes_only_pc {s : State} {answer : Answer} {c : Bool} {p : Prop} [Decidable p]
    (hanswer : answer = .next (s.skipIf c)) (h : c = true ↔ p) :
    ∃ t, answer = .next t ∧ OnlyPc s t ∧ t.pc = s.pc + if p then 4 else 2 :=
  ⟨s.skipIf c, hanswer, onlyPc_skipIf s c, skipIf_pc_eq_add s h⟩

/-! ## The instructions -/

theorem exec_jpNnn (nnn : BitVec 12) (s : State) : exec (.jpNnn nnn) s = .next (s.setPc (zextAddr nnn)) := rfl

theorem exec_seVxKk (x : Reg) (kk : Byte) (s : State) :
    exec (.seVxKk x kk) s = .next (s.skipIf (s.readV x == kk)) := rfl

theorem exec_sneVxKk (x : Reg) (kk : Byte) (s : State) :
    exec (.sneVxKk x kk) s = .next (s.skipIf (s.readV x != kk)) := rfl

/-! ## The obligations -/

/-- Settles O13: a jump is one write of `pc`, with the literal zero-extended. -/
theorem jumpSetsPc : Obligations.JumpSetsPc := by
  intro nnn s
  exact ⟨s.setPc (zextAddr nnn), exec_jpNnn nnn s, zextAddr_toNat nnn, onlyPc_setPc s _⟩

/-- Settles O15: both instructions are skips, and their tests decide `Vx = kk` and `Vx ≠ kk`. -/
theorem immediateSkips : Obligations.ImmediateSkips := by
  intro x kk s
  exact ⟨skip_changes_only_pc (exec_seVxKk x kk s) beq_iff_eq,
    skip_changes_only_pc (exec_sneVxKk x kk s) bne_iff_ne⟩

end Sys2Proof.Proofs.ControlFlow
end

section
/-! Register loads and arithmetic (41_load_alu): what writing one result changes, and the obligation on LD Vx,kk and
ADD Vx,kk. -/

namespace Sys2Proof.Proofs.LoadAlu

open Sys2Proof.Machine Sys2Proof.Safety

/-! ## One result -/

@[simp] theorem result_pc (s : State) (x : Reg) (b : Byte) : (s.result x b).pc = s.pc + 2 := rfl

@[simp] theorem result_readV (s : State) (x q : Reg) (b : Byte) :
    (s.result x b).readV q = if q = x then b else s.readV q := by
  rw [State.result, State.nextInstr_readV, State.readV_writeV]

theorem result_readV_self (s : State) (x : Reg) (b : Byte) : (s.result x b).readV x = b := by
  rw [result_readV, if_pos rfl]

theorem sameRegsBut_result (s : State) (x : Reg) (b : Byte) : SameRegsBut [x] s (s.result x b) := by
  intro q hq
  rw [result_readV, if_neg (List.ne_of_not_mem_cons hq)]

/-- A frame that leaves the registers open does not see a register write that came before. -/
theorem onlyRegsAndPc_writeV {s t : State} {x : Reg} {b : Byte} :
    OnlyRegsAndPc (s.writeV x b) t ↔ OnlyRegsAndPc s t := Iff.rfl

theorem onlyRegsAndPc_result (s : State) (x : Reg) (b : Byte) : OnlyRegsAndPc s (s.result x b) := by
  obtain ⟨-, frame⟩ := ControlFlow.onlyPc_setPc (s.writeV x b) ((s.writeV x b).pc + 2)
  exact onlyRegsAndPc_writeV.mp frame

/-! ## The instructions -/

theorem exec_ldVxKk (x : Reg) (kk : Byte) (s : State) : exec (.ldVxKk x kk) s = .next (s.result x kk) := rfl

theorem exec_addVxKk (x : Reg) (kk : Byte) (s : State) :
    exec (.addVxKk x kk) s = .next (s.result x (s.readV x + kk)) := rfl

/-! ## The obligation -/

/-- Settles O19: each instruction writes one result to `V[x]`, the literal or the sum of bytes, which wraps modulo 256. -/
theorem immediateLoadAndAdd : Obligations.ImmediateLoadAndAdd := by
  intro x kk s
  have sum_wraps : ((s.result x (s.readV x + kk)).readV x).toNat = ((s.readV x).toNat + kk.toNat) % 256 := by
    rw [result_readV_self, BitVec.toNat_add]
  exact ⟨
    ⟨s.result x kk, exec_ldVxKk x kk s, result_readV_self s x kk, result_pc s x kk, sameRegsBut_result s x kk,
      onlyRegsAndPc_result s x kk⟩,
    ⟨s.result x (s.readV x + kk), exec_addVxKk x kk s, sum_wraps, result_pc s x _, sameRegsBut_result s x _,
      onlyRegsAndPc_result s x _⟩⟩

end Sys2Proof.Proofs.LoadAlu
end

section
/-! The index register (42_index_memory): what writing `I` and stepping to the next instruction changes, and the
obligation on LD I,nnn. -/

namespace Sys2Proof.Proofs.IndexMemory

open Sys2Proof.Machine Sys2Proof.Safety

/-! ## A write of `I` -/

/-- A frame that leaves only `pc` open, taken from after a write of `I`, leaves `I` open as well. -/
theorem onlyIndexAndPc_of_onlyPc_setI {s t : State} {a : Word} (h : OnlyPc (s.setI a) t) : OnlyIndexAndPc s t := by
  obtain ⟨regs, -, display, mem, timers, background⟩ := h
  exact ⟨regs, display, mem, timers, background⟩

theorem onlyIndexAndPc_setI_nextInstr (s : State) (a : Word) : OnlyIndexAndPc s (s.setI a).nextInstr :=
  onlyIndexAndPc_of_onlyPc_setI (ControlFlow.onlyPc_setPc (s.setI a) _)

theorem setI_nextInstr_I (s : State) (a : Word) : (s.setI a).nextInstr.I = a := by
  rw [State.nextInstr_I, State.setI_I]

theorem setI_nextInstr_pc (s : State) (a : Word) : (s.setI a).nextInstr.pc = s.pc + 2 := by
  rw [State.nextInstr_pc, State.setI_pc]

/-! ## The instruction -/

theorem exec_ldINnn (nnn : BitVec 12) (s : State) :
    exec (.ldINnn nnn) s = .next (s.setI (zextAddr nnn)).nextInstr := rfl

/-! ## The obligation -/

/-- Settles O27: the instruction is one write of `I`, with the literal zero-extended, and a step to the next one. -/
theorem loadIndex : Obligations.LoadIndex := by
  intro nnn s
  have index : (s.setI (zextAddr nnn)).nextInstr.I.toNat = nnn.toNat := by
    rw [setI_nextInstr_I, zextAddr_toNat]
  exact ⟨(s.setI (zextAddr nnn)).nextInstr, exec_ldINnn nnn s, index, setI_nextInstr_pc s _,
    onlyIndexAndPc_setI_nextInstr s _⟩

end Sys2Proof.Proofs.IndexMemory
end

section
/-! The display (43_display): what replacing the whole display and stepping to the next instruction changes, and the
obligation on CLS. -/

namespace Sys2Proof.Proofs.Display

open Sys2Proof.Machine Sys2Proof.Safety

/-! ## A write of the display -/

@[simp] theorem pixel_zero (px py : Nat) : pixel 0 px py = false := BitVec.getLsbD_zero

/-- A frame that leaves only `pc` open, taken from after a write of the display, leaves the display open as well. -/
theorem onlyDisplayRegsAndPc_of_onlyPc_setDisplay {s t : State} {d : Display} (h : OnlyPc (s.setDisplay d) t) :
    OnlyDisplayRegsAndPc s t := by
  obtain ⟨-, index, -, mem, timers, background⟩ := h
  exact ⟨index, mem, timers, background⟩

theorem onlyDisplayRegsAndPc_setDisplay_nextInstr (s : State) (d : Display) :
    OnlyDisplayRegsAndPc s (s.setDisplay d).nextInstr :=
  onlyDisplayRegsAndPc_of_onlyPc_setDisplay (ControlFlow.onlyPc_setPc (s.setDisplay d) _)

theorem sameRegs_setDisplay_nextInstr (s : State) (d : Display) : SameRegs s (s.setDisplay d).nextInstr := by
  intro r
  rw [State.nextInstr_readV, State.setDisplay_readV]

theorem setDisplay_nextInstr_display (s : State) (d : Display) : (s.setDisplay d).nextInstr.display = d := by
  rw [State.nextInstr_display, State.setDisplay_display]

theorem setDisplay_nextInstr_pc (s : State) (d : Display) : (s.setDisplay d).nextInstr.pc = s.pc + 2 := by
  rw [State.nextInstr_pc, State.setDisplay_pc]

/-! ## The instruction -/

theorem exec_cls (s : State) : exec .cls s = .next (s.setDisplay 0).nextInstr := rfl

/-! ## The obligation -/

/-- Settles O35: the instruction is one write of the zero display, whose pixels are all 0, and a step to the next one. -/
theorem clearDisplay : Obligations.ClearDisplay := by
  intro s
  have clear (px py : Nat) : pixel (s.setDisplay 0).nextInstr.display px py = false := by
    rw [setDisplay_nextInstr_display, pixel_zero]
  exact ⟨(s.setDisplay 0).nextInstr, exec_cls s, clear, setDisplay_nextInstr_pc s 0,
    sameRegs_setDisplay_nextInstr s 0, onlyDisplayRegsAndPc_setDisplay_nextInstr s 0⟩

end Sys2Proof.Proofs.Display
end

section
/-! The keypad and the timers (44_keypad_timers): the obligation on LD Vx,DT, which writes one result as the register
loads of 41_load_alu do. -/

namespace Sys2Proof.Proofs.KeypadTimers

open Sys2Proof.Machine Sys2Proof.Safety Sys2Proof.Proofs.LoadAlu

/-! ## The instruction -/

theorem exec_ldVxDT (x : Reg) (s : State) : exec (.ldVxDT x) s = .next (s.result x s.DT) := rfl

/-! ## The obligation -/

/-- Settles O41: the instruction writes one result to `V[x]`, the delay timer as it was before the step. -/
theorem readDelayTimer : Obligations.ReadDelayTimer := by
  intro x s
  exact ⟨s.result x s.DT, exec_ldVxDT x s, result_readV_self s x s.DT, result_pc s x s.DT,
    sameRegsBut_result s x s.DT, onlyRegsAndPc_result s x s.DT⟩

end Sys2Proof.Proofs.KeypadTimers
end

section
/-! Timer ticks, key setters and the tick of the host (60_exceptions): every executor step answers a next state with
the key latch as it was, and what the events of the host do to the latch and to a sequence of steps. -/

namespace Sys2Proof.Proofs.Exceptions

open Sys2Proof.Machine

/-! ## Executor steps -/

theorem writeRegs_key (bs : List Byte) (r : Nat) (s : State) : (s.writeRegs r bs).key = s.key := by
  rw [State.writeRegs_eq, State.setV_key]

/-- Every instruction answers a next state (60_exceptions R119) and writes no key (10_state R19). -/
theorem exec_answers_keeping_key (i : Instr) (s : State) : ∃ t, exec i s = .next t ∧ t.key = s.key := by
  cases i with
  | ret =>
    by_cases empty : s.sp.val = 0
    · exact ⟨_, execRet_empty empty, rfl⟩
    · exact ⟨_, execRet_pop empty, rfl⟩
  | callNnn nnn =>
    by_cases full : s.sp.val = 16
    · exact ⟨_, execCallNnn_full full nnn, rfl⟩
    · exact ⟨_, execCallNnn_push (by omega) nnn, rfl⟩
  | ldVxK x =>
    cases captured : lowestKey s.key with
    | none => exact ⟨s, execLdVxK_none captured x, rfl⟩
    | some k => exact ⟨_, execLdVxK_some captured x, rfl⟩
  | ldVxMemI x => exact ⟨_, rfl, writeRegs_key _ 0 s⟩
  | _ => exact ⟨_, rfl, rfl⟩

theorem step_of_decoded {s : State} {i : Instr} (h : decode (fetch16 s.mem s.pc) = .ok i) : step s = exec i s := by
  simp only [step, h]

theorem step_answers_keeping_key (s : State) : ∃ t, step s = .next t ∧ t.key = s.key := by
  cases fetched : decode (fetch16 s.mem s.pc) with
  | ok i =>
    rw [step_of_decoded fetched]
    exact exec_answers_keeping_key i s
  | error e => exact ⟨_, step_of_reject fetched, rfl⟩

theorem execSteps_succ {s t : State} (h : step s = .next t) (n : Nat) : execSteps (n + 1) s = execSteps n t := by
  simp only [execSteps, h]

theorem execSteps_answers_keeping_key (n : Nat) (s : State) : ∃ t, execSteps n s = .next t ∧ t.key = s.key := by
  induction n generalizing s with
  | zero => exact ⟨s, rfl, rfl⟩
  | succ n ih =>
    obtain ⟨t, stepped, key_t⟩ := step_answers_keeping_key s
    obtain ⟨u, ran, key_u⟩ := ih t
    exact ⟨u, (execSteps_succ stepped n).trans ran, key_u.trans key_t⟩

/-! ## Advance and Tick -/

theorem advance_of_neg {elapsed : Rat} (h : elapsed < 0) (s : State) :
    advance elapsed s = .refused .negativeElapsedTime := if_pos h

theorem advance_of_nonneg {elapsed : Rat} (h : 0 ≤ elapsed) (s : State) :
    advance elapsed s =
      .next (drainAcc (drainFuel (s.acc + elapsed)) (s.setAcc (s.acc + elapsed))) := if_neg (not_lt.mpr h)

theorem advance_key {elapsed : Rat} {s t : State} (h : advance elapsed s = .next t) : t.key = s.key := by
  by_cases negative : elapsed < 0
  · rw [advance_of_neg negative] at h
    cases h
  · rw [advance_of_nonneg (not_lt.mp negative)] at h
    cases h
    rw [drainAcc_key, State.setAcc_key]

theorem tickWith_of_neg (n : PNat) {elapsed : Rat} (h : elapsed < 0) (s : State) :
    tickWith n elapsed s = .refused .negativeElapsedTime := if_pos h

/-- A tick on an elapsed time of at least 0 is its steps, then one advance (60_exceptions R124). -/
theorem tickWith_of_nonneg {n : PNat} {elapsed : Rat} {s t : State} (h : 0 ≤ elapsed)
    (ran : execSteps n.val s = .next t) : tickWith n elapsed s = advance elapsed t := by
  simp only [tickWith, if_neg (not_lt.mpr h), ran]

theorem tickWith_key {n : PNat} {elapsed : Rat} {s t : State} (h : tickWith n elapsed s = .next t) :
    t.key = s.key := by
  by_cases negative : elapsed < 0
  · rw [tickWith_of_neg n negative] at h
    cases h
  · obtain ⟨u, ran, key_u⟩ := execSteps_answers_keeping_key n.val s
    rw [tickWith_of_nonneg (not_lt.mp negative) ran] at h
    exact (advance_key h).trans key_u

/-! ## Sequences of events -/

theorem runEvents_cons {p : Params} {e : Event} {s t : State} (h : applyEvent p e s = .next t) (es : List Event) :
    runEvents p (e :: es) s = runEvents p es t := by
  simp only [runEvents, h]

/-- Executor steps as events, in front of other events. -/
theorem runEvents_execSteps (p : Params) (es : List Event) {n : Nat} {s t : State} (h : execSteps n s = .next t) :
    runEvents p (List.replicate n .execStep ++ es) s = runEvents p es t := by
  induction n generalizing s with
  | zero => cases h; rfl
  | succ n ih =>
    obtain ⟨u, stepped, -⟩ := step_answers_keeping_key s
    rw [execSteps_succ stepped] at h
    rw [List.replicate_succ, List.cons_append, runEvents_cons (e := .execStep) stepped, ih h]

/-! ## The key latch -/

theorem setKeyBit_of_outside (b : Bool) {index : Int} (h : ¬ (0 ≤ index ∧ index ≤ 15)) (s : State) :
    setKeyBit b index s = s := if_neg h

theorem setKeyDown_key {k : Nat} (h : k < 16) (s : State) :
    (setKeyDown k s).key = s.key ||| BitVec.twoPow 16 k := by
  rw [setKeyDown, setKeyBit, if_pos (by omega)]
  rfl

theorem setKeyUp_key {k : Nat} (h : k < 16) (s : State) :
    (setKeyUp k s).key = s.key &&& ~~~BitVec.twoPow 16 k := by
  rw [setKeyUp, setKeyBit, if_pos (by omega)]
  rfl

theorem keyDown_setKeyDown {k : Nat} (h : k < 16) (s : State) (j : Nat) :
    keyDown (setKeyDown k s).key j = (keyDown s.key j || j == k) := by
  rw [setKeyDown_key h, keyDown, BitVec.getLsbD_or, BitVec.getLsbD_twoPow]
  simp [keyDown, h, eq_comm, Bool.beq_eq_decide_eq]

theorem keyDown_setKeyUp {k : Nat} (h : k < 16) (s : State) {j : Nat} (hj : j < 16) :
    keyDown (setKeyUp k s).key j = (keyDown s.key j && j != k) := by
  rw [setKeyUp_key h, keyDown, BitVec.getLsbD_and, BitVec.getLsbD_not, BitVec.getLsbD_twoPow]
  simp [keyDown, h, hj, eq_comm, bne, Bool.beq_eq_decide_eq]

theorem setKeyBit_setKey (b : Bool) (index : Int) (s : State) : (setKeyBit b index s).setKey s.key = s := by
  by_cases inside : 0 ≤ index ∧ index ≤ 15
  · rw [setKeyBit, if_pos inside]
    rfl
  · rw [setKeyBit_of_outside b inside]
    rfl

theorem load_key {bytes : List Byte} {size : Int} {s t : State} (h : load bytes size s = .next t) :
    t.key = s.key := by
  unfold load at h
  split at h
  · cases h
  · split at h
    · cases h
    · cases h
      rw [State.setPc_key, State.setMem_key]
      split
      · exact State.report_key s _
      · rfl

/-- The events other than the key setters and `Reset` leave the key latch alone (60_exceptions R127). -/
theorem applyEvent_key {p : Params} {e : Event} {s t : State} (not_setter : ∀ k, e ≠ .setKeyDown k ∧ e ≠ .setKeyUp k)
    (not_reset : e ≠ .reset) (h : applyEvent p e s = .next t) : t.key = s.key := by
  cases e with
  | execStep =>
    obtain ⟨u, stepped, key_u⟩ := step_answers_keeping_key s
    cases stepped.symm.trans h
    exact key_u
  | timerTick => cases h; rfl
  | advance elapsed => exact advance_key h
  | reset => exact absurd rfl not_reset
  | load bytes size => exact load_key h
  | tick elapsed => exact tickWith_key h
  | setKeyDown index => exact absurd rfl (not_setter index).1
  | setKeyUp index => exact absurd rfl (not_setter index).2

/-! ## The obligations -/

/-- Settles O57: a setter writes one bit of the latch inside 0..15 and is the identity outside, and the other events
keep the latch because every executor step does. -/
theorem keySettersChangeOneBit : Obligations.KeySettersChangeOneBit := by
  intro index s
  refine ⟨fun outside => ⟨setKeyBit_of_outside true outside s, setKeyBit_of_outside false outside s⟩, ?_,
    setKeyBit_setKey true index s, setKeyBit_setKey false index s,
    fun p e t not_setter not_reset h => applyEvent_key not_setter not_reset h⟩
  rintro k inside rfl
  exact ⟨fun j _ => keyDown_setKeyDown inside s j, fun j hj => keyDown_setKeyUp inside s hj⟩

/-- Settles O58: the steps of the tick end in some state `t`, from which both sides are one advance. -/
theorem tickIsStepsThenAdvance : Obligations.TickIsStepsThenAdvance := by
  intro p n elapsed s nonneg
  obtain ⟨t, ran, -⟩ := execSteps_answers_keeping_key n.val s
  have advanced := advance_of_nonneg nonneg t
  rw [tickWith_of_nonneg nonneg ran, runEvents_execSteps p _ ran, runEvents_cons (e := .advance elapsed) advanced, advanced]
  exact ⟨rfl, _, rfl⟩

/-- Settles O54: a tick writes the two timers only, each with its own decrement floored at zero. -/
theorem timerTickDecrements : Obligations.TimerTickDecrements := by
  intro s
  have writes_timers_only : ((timerTick s).setDT s.DT).setST s.ST = s := rfl
  exact ⟨decTimer_toNat s.DT, decTimer_toNat s.ST, writes_timers_only⟩

end Sys2Proof.Proofs.Exceptions
end

section
/-! Encoding (30_encoding): each field of a word an instruction encodes to, the words of one class, and what
a row of the opcode table says of a word's fields; then the obligations that relate decoder, encoder and table. -/

namespace Sys2Proof.Proofs.Encoding

/-! ## The fields of an encoded word, one by one -/

section
variable {cls : Nat}

@[simp] theorem opClass_encodeA (h : cls < 16) (nnn : BitVec 12) : opClass (encodeA cls nnn) = cls :=
  (fields_encodeA h nnn).1

@[simp] theorem opNNN_encodeA (h : cls < 16) (nnn : BitVec 12) : opNNN (encodeA cls nnn) = nnn :=
  (fields_encodeA h nnn).2

variable (x y : Reg) (kk : Byte) (n : BitVec 4)

@[simp] theorem opClass_encodeXK (h : cls < 16) : opClass (encodeXK cls x kk) = cls := (fields_encodeXK h x kk).1

@[simp] theorem opX_encodeXK (h : cls < 16) : opX (encodeXK cls x kk) = x := (fields_encodeXK h x kk).2.1

@[simp] theorem opKK_encodeXK (h : cls < 16) : opKK (encodeXK cls x kk) = kk := (fields_encodeXK h x kk).2.2

@[simp] theorem opClass_encodeXY (h : cls < 16) : opClass (encodeXY cls x y n) = cls := (fields_encodeXY h x y n).1

@[simp] theorem opX_encodeXY (h : cls < 16) : opX (encodeXY cls x y n) = x := (fields_encodeXY h x y n).2.1

@[simp] theorem opY_encodeXY (h : cls < 16) : opY (encodeXY cls x y n) = y := (fields_encodeXY h x y n).2.2.1

@[simp] theorem opN_encodeXY (h : cls < 16) : opN (encodeXY cls x y n) = n := (fields_encodeXY h x y n).2.2.2

end

/-- Settles O2: the decoder's dispatch is on fields that the encoder has put into the word; only the row count of DRW
can be lost in its field, and well-formedness bounds it. -/
theorem encodeThenDecode : Obligations.EncodeThenDecode := by
  intro i wellFormed
  cases i with
  | cls | ret => rfl
  | drwVxVyN x y n =>
    have bound : n < 16 := by simpa [Instr.wellFormed, Nat.lt_succ_iff] using wellFormed
    simp [encode, decode, Nat.mod_eq_of_lt bound]
  | jpNnn | callNnn | ldINnn | jpV0Nnn => simp [encode, decode]
  | seVxKk | sneVxKk | ldVxKk | addVxKk | rndVxKk => simp [encode, decode]
  | seVxVy | sneVxVy => simp [encode, decode]
  | ldVxVy | orVxVy | andVxVy | xorVxVy | addVxVy | subVxVy | shrVx | subnVxVy | shlVx =>
    simp [encode, decode, decodeAlu]
  | skpVx | sknpVx => simp [encode, decode, decodeKey]
  | ldVxDT | ldVxK | ldDTVx | ldSTVx | addIVx | ldFVx | ldBVx | ldMemIVx | ldVxMemI =>
    simp [encode, decode, decodeMisc]

/-! ## Words of one class -/

/-- A word of a class is what its fields encode in any format, with the class as a number. -/
theorem encodeA_of_opClass {op : Word} {cls : Nat} (h : opClass op = cls) : encodeA cls (opNNN op) = op :=
  h ▸ encodeA_fields op

theorem encodeXK_of_opClass {op : Word} {cls : Nat} (h : opClass op = cls) : encodeXK cls (opX op) (opKK op) = op :=
  h ▸ encodeXK_fields op

theorem encodeXY_of_opClass {op : Word} {cls : Nat} (h : opClass op = cls) :
    encodeXY cls (opX op) (opY op) (opN op) = op :=
  h ▸ encodeXY_fields op

theorem encodeXK_of_opKK {op : Word} {cls : Nat} {kk : Byte} (h : opClass op = cls) (hk : (opKK op).toNat = kk.toNat) :
    encodeXK cls (opX op) kk = op := by
  rw [← BitVec.eq_of_toNat_eq hk, encodeXK_of_opClass h]

theorem encodeXY_of_opN {op : Word} {cls : Nat} {n : BitVec 4} (h : opClass op = cls)
    (hn : (opN op).toNat = n.toNat) : encodeXY cls (opX op) (opY op) n = op := by
  rw [← BitVec.eq_of_toNat_eq hn, encodeXY_of_opClass h]

theorem opClass_lt (op : Word) : opClass op < 16 := (op.extractLsb' 12 4).isLt

theorem encode_of_decodeSystem {op : Word} {i : Instr} (h : decodeSystem op = .ok i) :
    i.wellFormed = true ∧ encode i = op := by
  unfold decodeSystem at h
  split at h
  · cases h; exact ⟨rfl, by simp [encode, *]⟩
  · split at h
    · cases h; exact ⟨rfl, by simp [encode, *]⟩
    · cases h

theorem encode_of_decodeAlu {op : Word} {i : Instr} (hc : opClass op = 0x8) (h : decodeAlu op = .ok i) :
    i.wellFormed = true ∧ encode i = op := by
  unfold decodeAlu at h
  split at h <;> cases h <;> exact ⟨rfl, encodeXY_of_opN hc ‹_›⟩

theorem encode_of_decodeKey {op : Word} {i : Instr} (hc : opClass op = 0xE) (h : decodeKey op = .ok i) :
    i.wellFormed = true ∧ encode i = op := by
  unfold decodeKey at h
  split at h <;> cases h <;> exact ⟨rfl, encodeXK_of_opKK hc ‹_›⟩

theorem encode_of_decodeMisc {op : Word} {i : Instr} (hc : opClass op = 0xF) (h : decodeMisc op = .ok i) :
    i.wellFormed = true ∧ encode i = op := by
  unfold decodeMisc at h
  split at h <;> cases h <;> exact ⟨rfl, encodeXK_of_opKK hc ‹_›⟩

/-- Settles O3: in each class the instruction holds all fields of the word, or the secondary opcode that selected it. -/
theorem decodeThenEncode : Obligations.DecodeThenEncode := by
  intro op i h
  unfold decode at h
  split at h
  case h_1 => exact encode_of_decodeSystem h
  case h_2 hc | h_3 hc | h_11 hc | h_12 hc => cases h; exact ⟨rfl, encodeA_of_opClass hc⟩
  case h_4 hc | h_5 hc | h_7 hc | h_8 hc | h_13 hc => cases h; exact ⟨rfl, encodeXK_of_opClass hc⟩
  case h_6 hc | h_10 hc => cases h; exact ⟨rfl, encodeXY_of_opClass hc⟩
  case h_9 hc => exact encode_of_decodeAlu hc h
  case h_14 hc =>
    cases h
    have := (opN op).isLt
    exact ⟨by simp [Instr.wellFormed]; omega, by simp [encode, encodeXY_of_opClass hc]⟩
  case h_15 hc => exact encode_of_decodeKey hc h
  case h_16 =>
    have := opClass_lt op
    simp only [imp_false] at *
    exact encode_of_decodeMisc (by omega) h

/-! ## The rows of the opcode table -/

/-- The table, as the rows of one instruction each. -/
theorem opcodeRows_eq : opcodeRows =
    ([.cls, .ret, .jpNnn 0, .callNnn 0, .seVxKk 0 0, .sneVxKk 0 0, .seVxVy 0 0 0, .ldVxKk 0 0, .addVxKk 0 0,
      .ldVxVy 0 0, .orVxVy 0 0, .andVxVy 0 0, .xorVxVy 0 0, .addVxVy 0 0, .subVxVy 0 0, .shrVx 0 0, .subnVxVy 0 0,
      .shlVx 0 0, .sneVxVy 0 0 0, .ldINnn 0, .jpV0Nnn 0, .rndVxKk 0 0, .drwVxVyN 0 0 0, .skpVx 0, .sknpVx 0,
      .ldVxDT 0, .ldVxK 0, .ldDTVx 0, .ldSTVx 0, .addIVx 0, .ldFVx 0, .ldBVx 0, .ldMemIVx 0, .ldVxMemI 0] :
      List Instr).map rowOf := rfl

theorem rowOf_mem_opcodeRows (i : Instr) : rowOf i ∈ opcodeRows := by
  cases i <;> simp [opcodeRows, rowOf]

theorem exists_rowOf_eq {r : Row} (h : r ∈ opcodeRows) : ∃ i, rowOf i = r := by
  rw [opcodeRows_eq, List.mem_map] at h
  obtain ⟨i, -, rfl⟩ := h
  exact ⟨i, rfl⟩

/-- No two rows of the table have patterns that agree on the bits both examine. -/
theorem rows_disjoint : ∀ r ∈ opcodeRows, ∀ r' ∈ opcodeRows,
    r.pattern &&& r'.mask = r'.pattern &&& r.mask → r = r' := by decide +kernel

theorem Row.selects_iff_and (r : Row) (op : Word) : r.selects op = true ↔ op &&& r.mask = r.pattern := by
  simp [Row.selects]

/-- No word matches two rows (30_encoding R52, R59). -/
theorem row_unique {r r' : Row} (hr : r ∈ opcodeRows) (hr' : r' ∈ opcodeRows) {op : Word}
    (h : r.selects op = true) (h' : r'.selects op = true) : r = r' := by
  rw [Row.selects_iff_and] at h h'
  refine rows_disjoint r hr r' hr' ?_
  rw [← h, ← h', BitVec.and_assoc, BitVec.and_assoc, BitVec.and_comm r.mask]

/-- The word of an instruction is selected by its own row: the family of `Laws.EncodeInRow`, put together. -/
theorem rowOf_selects_encode (i : Instr) : (rowOf i).selects (encode i) = true := by
  cases i with
  | cls => exact Laws.EncodeInRow.cls
  | ret => exact Laws.EncodeInRow.ret
  | jpNnn nnn => exact Laws.EncodeInRow.jpNnn nnn
  | callNnn nnn => exact Laws.EncodeInRow.callNnn nnn
  | seVxKk x kk => exact Laws.EncodeInRow.seVxKk x kk
  | sneVxKk x kk => exact Laws.EncodeInRow.sneVxKk x kk
  | seVxVy x y pad => exact Laws.EncodeInRow.seVxVy x y pad
  | ldVxKk x kk => exact Laws.EncodeInRow.ldVxKk x kk
  | addVxKk x kk => exact Laws.EncodeInRow.addVxKk x kk
  | ldVxVy x y => exact Laws.EncodeInRow.ldVxVy x y
  | orVxVy x y => exact Laws.EncodeInRow.orVxVy x y
  | andVxVy x y => exact Laws.EncodeInRow.andVxVy x y
  | xorVxVy x y => exact Laws.EncodeInRow.xorVxVy x y
  | addVxVy x y => exact Laws.EncodeInRow.addVxVy x y
  | subVxVy x y => exact Laws.EncodeInRow.subVxVy x y
  | shrVx x y => exact Laws.EncodeInRow.shrVx x y
  | subnVxVy x y => exact Laws.EncodeInRow.subnVxVy x y
  | shlVx x y => exact Laws.EncodeInRow.shlVx x y
  | sneVxVy x y pad => exact Laws.EncodeInRow.sneVxVy x y pad
  | ldINnn nnn => exact Laws.EncodeInRow.ldINnn nnn
  | jpV0Nnn nnn => exact Laws.EncodeInRow.jpV0Nnn nnn
  | rndVxKk x kk => exact Laws.EncodeInRow.rndVxKk x kk
  | drwVxVyN x y n => exact Laws.EncodeInRow.drwVxVyN x y n
  | skpVx x => exact Laws.EncodeInRow.skpVx x
  | sknpVx x => exact Laws.EncodeInRow.sknpVx x
  | ldVxDT x => exact Laws.EncodeInRow.ldVxDT x
  | ldVxK x => exact Laws.EncodeInRow.ldVxK x
  | ldDTVx x => exact Laws.EncodeInRow.ldDTVx x
  | ldSTVx x => exact Laws.EncodeInRow.ldSTVx x
  | addIVx x => exact Laws.EncodeInRow.addIVx x
  | ldFVx x => exact Laws.EncodeInRow.ldFVx x
  | ldBVx x => exact Laws.EncodeInRow.ldBVx x
  | ldMemIVx x => exact Laws.EncodeInRow.ldMemIVx x
  | ldVxMemI x => exact Laws.EncodeInRow.ldVxMemI x

theorem rowOf_selects_of_decode {op : Word} {i : Instr} (h : decode op = .ok i) : (rowOf i).selects op = true := by
  obtain ⟨-, encoded⟩ := decodeThenEncode op i h
  exact encoded ▸ rowOf_selects_encode i

/-! What a row that selects a word says of the fields the decoder dispatches on, for each of the table's masks. -/

section
variable {op pattern : Word}

theorem opClass_of_F000 (h : (Row.mk 0xF000 pattern).selects op = true) : opClass op = pattern.toNat / 4096 := by
  simp only [Row.selects_iff, and_F000] at h
  rw [opClass_eq]
  omega

theorem fields_of_F00F (h : (Row.mk 0xF00F pattern).selects op = true) :
    opClass op = pattern.toNat / 4096 ∧ (opN op).toNat = pattern.toNat % 16 := by
  simp only [Row.selects_iff, and_F00F] at h
  rw [opClass_eq, opN_toNat]
  omega

theorem fields_of_F0FF (h : (Row.mk 0xF0FF pattern).selects op = true) :
    opClass op = pattern.toNat / 4096 ∧ (opKK op).toNat = pattern.toNat % 256 := by
  simp only [Row.selects_iff, and_F0FF] at h
  rw [opClass_eq, opKK_toNat]
  omega

theorem eq_of_FFFF (h : (Row.mk 0xFFFF pattern).selects op = true) : op = pattern := by
  have masked : op &&& BitVec.allOnes 16 = pattern := (Row.selects_iff_and _ _).mp h
  rw [← masked, BitVec.and_allOnes]

end

/-- A word some row selects is decoded (30_encoding R52, R54). -/
theorem decode_ok_of_selects {i : Instr} {op : Word} (h : (rowOf i).selects op = true) : ∃ j, decode op = .ok j := by
  cases i with
  | cls | ret => exact eq_of_FFFF h ▸ ⟨_, rfl⟩
  | jpNnn | callNnn | seVxKk | sneVxKk | seVxVy | ldVxKk | addVxKk | sneVxVy | ldINnn | jpV0Nnn | rndVxKk
  | drwVxVyN => simp [decode, opClass_of_F000 h]
  | ldVxVy | orVxVy | andVxVy | xorVxVy | addVxVy | subVxVy | shrVx | subnVxVy | shlVx =>
    simp [decode, decodeAlu, fields_of_F00F h]
  | skpVx | sknpVx => simp [decode, decodeKey, fields_of_F0FF h]
  | ldVxDT | ldVxK | ldDTVx | ldSTVx | addIVx | ldFVx | ldBVx | ldMemIVx | ldVxMemI =>
    simp [decode, decodeMisc, fields_of_F0FF h]

/-- A word is decoded exactly when some row of the table selects it. -/
theorem decodes_iff_selected (op : Word) : (∃ i, decode op = .ok i) ↔ ∃ r ∈ opcodeRows, r.selects op = true := by
  constructor
  · rintro ⟨i, h⟩
    exact ⟨rowOf i, rowOf_mem_opcodeRows i, rowOf_selects_of_decode h⟩
  · rintro ⟨r, hr, selected⟩
    obtain ⟨i, rfl⟩ := exists_rowOf_eq hr
    exact decode_ok_of_selects selected

/-- Settles O4: the row of a decoded instruction selects its word, and no second row does. -/
theorem opcodeTableDecides : Obligations.OpcodeTableDecides := by
  refine ⟨decodes_iff_selected, fun op i h r hr => ⟨fun selected => ?_, ?_⟩⟩
  · exact row_unique hr (rowOf_mem_opcodeRows i) selected (rowOf_selects_of_decode h)
  · rintro rfl
    exact rowOf_selects_of_decode h

/-- Settles O1: the decoder, run on each word. -/
theorem sampleWordsDecode : Obligations.SampleWordsDecode := by
  unfold Obligations.SampleWordsDecode
  decide

end Sys2Proof.Proofs.Encoding
end

section
/-! What one instruction, and one executor step, can change: each part of the state that an instruction other than its
writers keeps, said once for all instructions (10_state R10 to R22), and the obligations on writers that follow. -/

namespace Sys2Proof.Proofs.Writers

open Sys2Proof.Machine Sys2Proof.Safety

/-! ## The instructions of two cases: what holds of the answer in both holds of the answer -/

section
variable {P : State → Prop} {s : State}

theorem exec_ret_answers (empty : s.sp.val = 0 → P (s.reportAndSkip (.stackUnderflow s.pc)))
    (pop : ∀ h : s.sp.val ≠ 0, P (s.drop.setPc (s.top h))) : ∃ t, exec .ret s = .next t ∧ P t := by
  by_cases h : s.sp.val = 0
  · exact ⟨_, execRet_empty h, empty h⟩
  · exact ⟨_, execRet_pop h, pop h⟩

theorem exec_callNnn_answers (nnn : BitVec 12)
    (full : s.sp.val = 16 → P (s.reportAndSkip (.stackOverflow s.pc nnn)))
    (push : ∀ h : s.sp.val < 16, P ((s.push (s.pc + 2) h).setPc (zextAddr nnn))) :
    ∃ t, exec (.callNnn nnn) s = .next t ∧ P t := by
  by_cases h : s.sp.val = 16
  · exact ⟨_, execCallNnn_full h nnn, full h⟩
  · exact ⟨_, execCallNnn_push (by omega) nnn, push (by omega)⟩

theorem exec_ldVxK_answers (x : Reg) (none : lowestKey s.key = none → P s)
    (some : ∀ k, lowestKey s.key = some k → P (s.result x (BitVec.ofNat 8 k))) :
    ∃ t, exec (.ldVxK x) s = .next t ∧ P t := by
  cases h : lowestKey s.key with
  | none => exact ⟨s, execLdVxK_none h x, none h⟩
  | some k => exact ⟨_, execLdVxK_some h x, some k h⟩

end

/-! ## The frame of an instruction -/

/-- What the instruction `i` keeps between the states before and after it: each part of the state but the registers and
`pc`, unless `i` is a writer of that part; the form of memory; and the diagnostic output, but for one record. -/
structure Frame (i : Instr) (s t : State) : Prop where
  mem : (∀ x, i ≠ .ldBVx x ∧ i ≠ .ldMemIVx x) → t.mem = s.mem
  memWf : Memory.wf s.mem = true → Memory.wf t.mem = true
  index : (∀ nnn x, i ≠ .ldINnn nnn ∧ i ≠ .addIVx x ∧ i ≠ .ldFVx x) → t.I = s.I
  display : (i ≠ .cls ∧ ∀ x y n, i ≠ .drwVxVyN x y n) → t.display = s.display
  callStack : (i ≠ .ret ∧ ∀ nnn, i ≠ .callNnn nnn) → t.stack = s.stack ∧ t.sp = s.sp ∧ t.diag = s.diag
  reported : t.diag = s.diag ∨ t.diag = s.diag ++ [.stackUnderflow s.pc] ∨
    ∃ nnn, t.diag = s.diag ++ [.stackOverflow s.pc nnn]
  key : t.key = s.key
  acc : t.acc = s.acc
  delay : (∀ x, i ≠ .ldDTVx x) → t.DT = s.DT
  sound : (∀ x, i ≠ .ldSTVx x) → t.ST = s.ST
  draws : (∀ x kk, i ≠ .rndVxKk x kk) → t.draws = s.draws

/-- What writes only registers and `pc` is in the frame of every instruction. -/
theorem frame_setV_setPc (i : Instr) (s : State) (v : Vector Byte 16) (a : Word) : Frame i s ((s.setV v).setPc a) where
  mem _ := rfl
  memWf wf := wf
  index _ := rfl
  display _ := rfl
  callStack _ := ⟨rfl, rfl, rfl⟩
  reported := .inl rfl
  key := rfl
  acc := rfl
  delay _ := rfl
  sound _ := rfl
  draws _ := rfl

theorem frame_setPc (i : Instr) (s : State) (a : Word) : Frame i s (s.setPc a) := frame_setV_setPc i s s.V a

theorem frame_result (i : Instr) (s : State) (x : Reg) (b : Byte) : Frame i s (s.result x b) :=
  frame_setV_setPc i s _ _

theorem frame_ldVxMemI (x : Reg) (s : State) : ∃ t, exec (.ldVxMemI x) s = .next t ∧ Frame (.ldVxMemI x) s t := by
  refine ⟨_, rfl, ?_⟩
  rw [State.writeRegs_eq]
  exact frame_setV_setPc _ s _ _

/-- Every instruction answers a next state in its frame. -/
theorem exec_answers_in_frame (i : Instr) (s : State) : ∃ t, exec i s = .next t ∧ Frame i s t := by
  cases i with
  | ret =>
    exact exec_ret_answers (fun _ => by constructor <;> simp [State.reportAndSkip])
      (fun _ => by constructor <;> simp)
  | callNnn nnn =>
    exact exec_callNnn_answers nnn (fun _ => by constructor <;> simp [State.reportAndSkip])
      (fun _ => by constructor <;> simp [State.push])
  | ldVxK x => exact exec_ldVxK_answers x (fun _ => frame_setPc _ s s.pc) (fun _ _ => frame_result _ s x _)
  | ldVxMemI x => exact frame_ldVxMemI x s
  | cls | ldINnn | addIVx | ldFVx | ldDTVx | ldSTVx | drwVxVyN => exact ⟨_, rfl, by constructor <;> simp⟩
  | rndVxKk => exact ⟨_, rfl, by constructor <;> simp [State.result]⟩
  | ldBVx | ldMemIVx => exact ⟨_, rfl, by constructor <;> simp +contextual [storeBytes_wf]⟩
  | jpNnn | jpV0Nnn | seVxKk | sneVxKk | seVxVy | sneVxVy | skpVx | sknpVx => exact ⟨_, rfl, frame_setPc _ s _⟩
  | ldVxKk | addVxKk | ldVxVy | orVxVy | andVxVy | xorVxVy | addVxVy | subVxVy | shrVx | subnVxVy | shlVx | ldVxDT =>
    exact ⟨_, rfl, frame_setV_setPc _ s _ _⟩

theorem exec_frame {i : Instr} {s t : State} (h : exec i s = .next t) : Frame i s t := by
  obtain ⟨u, answered, frame⟩ := exec_answers_in_frame i s
  cases answered.symm.trans h
  exact frame

/-! ## The registers an instruction keeps -/

theorem sameRegsBut_resultWithFlag (s : State) (x : Reg) (b flag : Byte) :
    SameRegsBut [x, regF] s (s.resultWithFlag x b flag) := by
  intro q hq
  simp only [List.mem_cons, List.not_mem_nil, or_false, not_or, regF] at hq
  rw [State.resultWithFlag, State.nextInstr_readV, State.readV_writeWithFlag, if_neg hq.2, if_neg hq.1]

theorem sameRegsBut_writeRegs (s : State) (x : Reg) (bs : List Byte) (h : bs.length = x.val + 1) :
    SameRegsBut ((List.finRange 16).filter (· ≤ x)) s (s.writeRegs 0 bs).nextInstr := by
  intro q hq
  have above : x.val < q.val := by simpa using hq
  rw [State.nextInstr_readV, State.readV_writeRegs bs 0 s (by omega), dif_neg (by omega)]

/-- Every instruction answers a next state in which only the registers it names may differ (10_state R10, R11). -/
theorem exec_answers_keeping_regs (i : Instr) (s : State) :
    ∃ t, exec i s = .next t ∧ SameRegsBut (writtenRegs i) s t := by
  cases i with
  | ret => exact exec_ret_answers (fun _ _ _ => rfl) (fun _ _ _ => rfl)
  | callNnn nnn => exact exec_callNnn_answers nnn (fun _ _ _ => rfl) (fun _ _ _ => rfl)
  | ldVxK x => exact exec_ldVxK_answers x (fun _ _ _ => rfl) (fun _ _ => LoadAlu.sameRegsBut_result s x _)
  | ldVxMemI x => exact ⟨_, rfl, sameRegsBut_writeRegs s x _ (loadBytes_length ..)⟩
  | ldVxKk x | addVxKk x | ldVxVy x | orVxVy x | andVxVy x | xorVxVy x | rndVxKk x | ldVxDT x =>
    exact ⟨_, rfl, LoadAlu.sameRegsBut_result s x _⟩
  | addVxVy x | subVxVy x | shrVx x | subnVxVy x | shlVx x => exact ⟨_, rfl, sameRegsBut_resultWithFlag s x _ _⟩
  | drwVxVyN => exact ⟨_, rfl, LoadAlu.sameRegsBut_result (s.setDisplay _) regF _⟩
  | cls | jpNnn | jpV0Nnn | seVxKk | sneVxKk | seVxVy | sneVxVy | skpVx | sknpVx | ldINnn | addIVx | ldFVx | ldBVx
  | ldMemIVx | ldDTVx | ldSTVx => exact ⟨_, rfl, fun _ _ => rfl⟩

theorem exec_sameRegsBut {i : Instr} {s t : State} (h : exec i s = .next t) : SameRegsBut (writtenRegs i) s t := by
  obtain ⟨u, answered, same⟩ := exec_answers_keeping_regs i s
  cases answered.symm.trans h
  exact same

/-! ## The two kinds of step -/

/-- The state after a decode error (30_encoding R54, 60_exceptions R111). -/
def afterReject (s : State) : State := s.reportAndSkip (.decodeError (fetch16 s.mem s.pc) s.pc)

theorem step_afterReject {s : State} {e : Reject} (h : decode (fetch16 s.mem s.pc) = .error e) :
    step s = .next (afterReject s) := step_of_reject h

/-- All a step can do: execute the instruction at `pc`, or take the decode error (30_encoding R45, R54). -/
theorem step_cases {s t : State} (h : step s = .next t) :
    (∃ i, decode (fetch16 s.mem s.pc) = .ok i ∧ exec i s = .next t) ∨
    (∃ e, decode (fetch16 s.mem s.pc) = .error e) ∧ t = afterReject s := by
  cases fetched : decode (fetch16 s.mem s.pc) with
  | ok i => exact .inl ⟨i, rfl, Exceptions.step_of_decoded fetched ▸ h⟩
  | error e =>
    cases (step_afterReject fetched).symm.trans h
    exact .inr ⟨⟨e, rfl⟩, rfl⟩

/-- Some executor steps keep what every step keeps. -/
theorem execSteps_keeps {P : State → Prop} (kept : ∀ {s t}, P s → step s = .next t → P t) {n : Nat} {s t : State}
    (holds : P s) (ran : execSteps n s = .next t) : P t := by
  induction n generalizing s with
  | zero => cases ran; exact holds
  | succ n ih =>
    obtain ⟨u, stepped, -⟩ := Exceptions.step_answers_keeping_key s
    exact ih (kept holds stepped) (Exceptions.execSteps_succ stepped n ▸ ran)

/-! ## The obligations on writers -/

/-- Settles O43: two parts of the frame of every instruction. -/
theorem memoryAndIndexWriters : Obligations.MemoryAndIndexWriters := by
  intro i s t h
  have frame := exec_frame h
  exact ⟨fun other a => by rw [frame.mem other], frame.index⟩

/-- Settles O44: two parts of the frame of every instruction. -/
theorem displayAndStackWriters : Obligations.DisplayAndStackWriters := by
  intro i s t h
  exact ⟨(exec_frame h).display, (exec_frame h).callStack⟩

/-- Settles O45: keys, accumulator and timers by the frame of the instruction; a decode error writes none of them. -/
theorem keyAndTimerWriters : Obligations.KeyAndTimerWriters := by
  intro s t h
  obtain ⟨i, fetched, executed⟩ | ⟨-, rfl⟩ := step_cases h
  · have frame := exec_frame executed
    simp only [fetched, ne_eq, Except.ok.injEq]
    exact ⟨frame.key, frame.acc, frame.delay, frame.sound⟩
  · exact ⟨rfl, rfl, fun _ => rfl, fun _ => rfl⟩

/-- Settles O26: the registers an instruction names, case by case; a decode error writes none. -/
theorem registersChangeOnlyAsNamed : Obligations.RegistersChangeOnlyAsNamed := by
  refine ⟨fun i s t => exec_sameRegsBut, fun s t e rejected h => ?_⟩
  cases (step_afterReject rejected).symm.trans h
  exact fun _ => rfl

/-- Settles O9: an instruction reports at most one record by its frame, a decode error reports one. -/
theorem stepAlwaysCompletes : Obligations.StepAlwaysCompletes := by
  intro s
  obtain ⟨t, stepped, -⟩ := Exceptions.step_answers_keeping_key s
  refine ⟨t, stepped, ?_⟩
  obtain ⟨i, -, executed⟩ | ⟨-, rfl⟩ := step_cases stepped
  · obtain same | underflow | ⟨nnn, overflow⟩ := (exec_frame executed).reported
    · exact .inl same
    · exact .inr ⟨_, underflow⟩
    · exact .inr ⟨_, overflow⟩
  · exact .inr ⟨_, rfl⟩

/-- Settles O8: a word no row selects is not decoded; and no instruction appends a decode error to the output, so a step
that does is not the step of an instruction. -/
theorem unmatchedWordIsSkipped : Obligations.UnmatchedWordIsSkipped := by
  constructor
  · intro s unmatched
    cases fetched : decode (fetch16 s.mem s.pc) with
    | ok i =>
      obtain ⟨r, hr, selected⟩ := (Encoding.decodes_iff_selected _).mp ⟨i, fetched⟩
      simp [unmatched r hr] at selected
    | error e =>
      exact ⟨afterReject s, step_afterReject fetched, rfl, rfl, rfl, rfl, rfl, fun _ => rfl, rfl, rfl, fun _ => rfl,
        ⟨rfl, rfl⟩, rfl, rfl⟩
  · intro s t op pc h record r hr
    obtain ⟨i, -, executed⟩ | ⟨⟨e, rejected⟩, -⟩ := step_cases h
    · have reported := (exec_frame executed).reported
      simp [record] at reported
    · by_contra selected
      obtain ⟨i, decoded⟩ := (Encoding.decodes_iff_selected _).mpr ⟨r, hr, Bool.eq_true_of_not_eq_false selected⟩
      cases decoded.symm.trans rejected

end Sys2Proof.Proofs.Writers
end

section
/-! What every event keeps (10_state R29, 60_exceptions R126, R132): the answers of the host's calls taken apart once,
then the invariant and the draw counter. -/

namespace Sys2Proof.Proofs.Invariant

open Sys2Proof.Machine Sys2Proof.Safety

/-! ## The answers of the host's calls -/

/-- An advance that answers a state had an elapsed time of at least 0, and ran the loop of R122. -/
theorem advance_cases {elapsed : Rat} {s t : State} (h : advance elapsed s = .next t) :
    0 ≤ elapsed ∧ t = drainAcc (drainFuel (s.acc + elapsed)) (s.setAcc (s.acc + elapsed)) := by
  by_cases negative : elapsed < 0
  · rw [Exceptions.advance_of_neg negative] at h
    cases h
  · have nonneg := not_lt.mp negative
    rw [Exceptions.advance_of_nonneg nonneg] at h
    cases h
    exact ⟨nonneg, rfl⟩

/-- A tick that answers a state is its steps, then one advance (60_exceptions R124). -/
theorem tickWith_cases {n : PNat} {elapsed : Rat} {s t : State} (h : tickWith n elapsed s = .next t) :
    ∃ u, execSteps n.val s = .next u ∧ advance elapsed u = .next t := by
  by_cases negative : elapsed < 0
  · rw [Exceptions.tickWith_of_neg n negative] at h
    cases h
  · obtain ⟨u, ran, -⟩ := Exceptions.execSteps_answers_keeping_key n.val s
    exact ⟨u, ran, Exceptions.tickWith_of_nonneg (not_lt.mp negative) ran ▸ h⟩

/-- The state a `Load` of `size` bytes leaves (70_reset_and_hazards R137, R138). -/
def afterLoad (bytes : List Byte) (size : Nat) (s : State) : State :=
  (((if size > Config.loadCapacity then s.report (.loadTruncation size Config.loadCapacity) else s).setMem
    (storeBytes s.mem Config.progOrigin (bytes.take (min size Config.loadCapacity)))).setPc
      (BitVec.ofNat 16 Config.progOrigin))

theorem load_of_le {bytes : List Byte} {size : Nat} (h : size ≤ bytes.length) (s : State) :
    load bytes size s = .next (afterLoad bytes size s) := by
  have same : (if size > Config.loadCapacity then s.report (.loadTruncation size Config.loadCapacity) else s).mem
      = s.mem := by split <;> rfl
  simp only [load, afterLoad, Int.toNat_natCast, if_neg (show ¬ (size : Int) < 0 by omega), if_neg (not_lt.mpr h), same]

theorem load_of_neg (bytes : List Byte) {size : Int} (h : size < 0) (s : State) :
    load bytes size s = .refused .negativeLoadSize := if_pos h

theorem load_of_gt {bytes : List Byte} {size : Nat} (h : bytes.length < size) (s : State) :
    load bytes size s = .refused .loadSizeBeyondBuffer := by
  simp only [load, Int.toNat_natCast, if_neg (show ¬ (size : Int) < 0 by omega), if_pos h]

/-- A load that answers a state had arguments within the host's duty (70_reset_and_hazards R137, D32). -/
theorem load_cases {bytes : List Byte} {size : Int} {s t : State} (h : load bytes size s = .next t) :
    ∃ n : Nat, size = n ∧ n ≤ bytes.length ∧ t = afterLoad bytes n s := by
  by_cases negative : size < 0
  · rw [load_of_neg bytes negative] at h
    cases h
  · obtain ⟨n, rfl⟩ := Int.eq_ofNat_of_zero_le (not_lt.mp negative)
    by_cases enough : n ≤ bytes.length
    · rw [load_of_le enough] at h
      cases h
      exact ⟨n, rfl, enough, rfl⟩
    · rw [load_of_gt (not_le.mp enough)] at h
      cases h

/-! What a `Load` leaves in each part of the state. -/

section
variable (bytes : List Byte) (size : Nat) (s : State)

/-- A `Load` writes memory, `pc` and the diagnostic output, and nothing else. -/
theorem afterLoad_eq : afterLoad bytes size s =
    ((s.setMem (storeBytes s.mem Config.progOrigin (bytes.take (min size Config.loadCapacity)))).setDiag
      (if size > 3584 then s.diag ++ [.loadTruncation size 3584] else s.diag)).setPc 0x200 := by
  unfold afterLoad
  by_cases long : size > 3584
  · rw [if_pos long, if_pos long]
    rfl
  · rw [if_neg long, if_neg long]
    rfl

@[simp] theorem afterLoad_mem : (afterLoad bytes size s).mem =
    storeBytes s.mem Config.progOrigin (bytes.take (min size Config.loadCapacity)) := by
  rw [afterLoad_eq]; rfl

@[simp] theorem afterLoad_acc : (afterLoad bytes size s).acc = s.acc := by rw [afterLoad_eq]; rfl

@[simp] theorem afterLoad_draws : (afterLoad bytes size s).draws = s.draws := by rw [afterLoad_eq]; rfl

end

/-! A key setter writes the latch and nothing else (60_exceptions R127). -/

section
variable (b : Bool) (index : Int) (s : State)

theorem setKeyBit_eq : setKeyBit b index s = s.setKey (setKeyBit b index s).key := by
  by_cases inside : 0 ≤ index ∧ index ≤ 15
  · simp only [setKeyBit, if_pos inside]
    rfl
  · rw [Exceptions.setKeyBit_of_outside b inside]
    rfl

@[simp] theorem setKeyBit_mem : (setKeyBit b index s).mem = s.mem := by rw [setKeyBit_eq]; rfl

@[simp] theorem setKeyBit_acc : (setKeyBit b index s).acc = s.acc := by rw [setKeyBit_eq]; rfl

@[simp] theorem setKeyBit_draws : (setKeyBit b index s).draws = s.draws := by rw [setKeyBit_eq]; rfl

end

/-! ## The invariant -/

theorem machineInv_of_eq {s t : State} (inv : MachineInv s) (acc : t.acc = s.acc) (mem : t.mem = s.mem) :
    MachineInv t := by
  simpa only [MachineInv, acc, mem] using inv

theorem step_keeps_machineInv {s t : State} (inv : MachineInv s) (h : step s = .next t) : MachineInv t := by
  obtain ⟨i, -, executed⟩ | ⟨-, rfl⟩ := Writers.step_cases h
  · obtain ⟨nonneg, bounded, wf⟩ := inv
    have frame := Writers.exec_frame executed
    exact ⟨frame.acc ▸ nonneg, frame.acc ▸ bounded, frame.memWf wf⟩
  · exact machineInv_of_eq inv rfl rfl

theorem advance_keeps_machineInv {elapsed : Rat} {s t : State} (inv : MachineInv s)
    (h : advance elapsed s = .next t) : MachineInv t := by
  obtain ⟨nonneg, bounded, wf⟩ := inv
  obtain ⟨elapsed_nonneg, rfl⟩ := advance_cases h
  refine ⟨drainAcc_acc_nonneg _ _ ?_, drainAcc_acc_le _ _ (drainFuel_enough _), ?_⟩
  · exact add_nonneg nonneg elapsed_nonneg
  · rwa [drainAcc_mem, State.setAcc_mem]

theorem tickWith_keeps_machineInv {n : PNat} {elapsed : Rat} {s t : State} (inv : MachineInv s)
    (h : tickWith n elapsed s = .next t) : MachineInv t := by
  obtain ⟨u, ran, advanced⟩ := tickWith_cases h
  exact advance_keeps_machineInv (Writers.execSteps_keeps step_keeps_machineInv inv ran) advanced

theorem resetOp_machineInv (font : Font) (s : State) : MachineInv (resetOp font s) :=
  ⟨le_refl 0, timerPeriod_pos.le, storeBytes_wf rfl _ _⟩

theorem load_keeps_machineInv {bytes : List Byte} {size : Int} {s t : State} (inv : MachineInv s)
    (h : load bytes size s = .next t) : MachineInv t := by
  obtain ⟨nonneg, bounded, wf⟩ := inv
  obtain ⟨n, -, -, rfl⟩ := load_cases h
  refine ⟨?_, ?_, ?_⟩
  · rwa [afterLoad_acc]
  · rwa [afterLoad_acc]
  · rw [afterLoad_mem]
    exact storeBytes_wf wf _ _

/-- Settles O48: the accumulator is 0 and memory lists nothing. -/
theorem resetMeetsInvariant : Obligations.ResetMeetsInvariant := ⟨le_refl 0, timerPeriod_pos.le, rfl⟩

/-- Settles O49: by its frame an instruction keeps the accumulator and the form of memory; a decode error keeps both. -/
theorem stepKeepsInvariant : Obligations.StepKeepsInvariant := fun _ _ => step_keeps_machineInv

/-- Settles O50: event by event; a tick is steps and one advance. -/
theorem everyEventKeepsInvariant : Obligations.EveryEventKeepsInvariant := by
  intro p e s t inv h
  cases e with
  | execStep => exact step_keeps_machineInv inv h
  | timerTick => cases h; exact machineInv_of_eq inv rfl rfl
  | advance elapsed => exact advance_keeps_machineInv inv h
  | reset => cases h; exact resetOp_machineInv p.font s
  | load bytes size => exact load_keeps_machineInv inv h
  | tick elapsed => exact tickWith_keeps_machineInv inv h
  | setKeyDown index | setKeyUp index =>
    cases h
    exact machineInv_of_eq inv (setKeyBit_acc _ index s) (setKeyBit_mem _ index s)

/-! ## The draw counter -/

theorem exec_rndVxKk_draws {x : Reg} {kk : Byte} {s t : State} (h : exec (.rndVxKk x kk) s = .next t) :
    t.draws = s.draws + 1 := by
  cases h
  rfl

theorem step_draws {s t : State} (h : step s = .next t) :
    ((∃ x kk, decode (fetch16 s.mem s.pc) = .ok (.rndVxKk x kk)) → t.draws = s.draws + 1) ∧
    ((∀ x kk, decode (fetch16 s.mem s.pc) ≠ .ok (.rndVxKk x kk)) → t.draws = s.draws) := by
  obtain ⟨i, fetched, executed⟩ | ⟨⟨e, rejected⟩, rfl⟩ := Writers.step_cases h
  · simp only [fetched, ne_eq, Except.ok.injEq]
    refine ⟨?_, (Writers.exec_frame executed).draws⟩
    rintro ⟨x, kk, rfl⟩
    exact exec_rndVxKk_draws executed
  · exact ⟨by simp [rejected], fun _ => rfl⟩

/-- The events other than steps and ticks leave the draw counter alone (log 2). -/
theorem applyEvent_draws {p : Params} {e : Event} {s t : State} (not_step : e ≠ .execStep)
    (not_tick : ∀ elapsed, e ≠ .tick elapsed) (h : applyEvent p e s = .next t) : t.draws = s.draws := by
  cases e with
  | execStep => exact absurd rfl not_step
  | timerTick | reset => cases h; rfl
  | advance elapsed =>
    obtain ⟨-, rfl⟩ := advance_cases h
    rw [drainAcc_draws, State.setAcc_draws]
  | load bytes size =>
    obtain ⟨n, -, -, rfl⟩ := load_cases h
    exact afterLoad_draws bytes n s
  | tick elapsed => exact absurd rfl (not_tick elapsed)
  | setKeyDown index | setKeyUp index =>
    cases h
    exact setKeyBit_draws _ index s

/-- Settles O60: RND writes the counter, by the frame no other instruction does, nor does a decode error or an event. -/
theorem onlyRandomMovesDraws : Obligations.OnlyRandomMovesDraws :=
  ⟨fun _ _ => step_draws, fun _ _ _ h => (Writers.exec_frame h).draws, fun _ _ _ _ => applyEvent_draws⟩

end Sys2Proof.Proofs.Invariant
end

section
/-! The host's calls, one by one: how many timer ticks an advance performs (60_exceptions R122, R123), what `Load`
copies (70_reset_and_hazards R137 to R139), what `Reset` leaves (10_state R28), and the reads (60_exceptions R128 to R130). -/

namespace Sys2Proof.Proofs.HostCalls

open Sys2Proof.Machine Sys2Proof.Safety

/-! ## Advance -/

theorem iterate_timerTick_setAcc (k : Nat) (s : State) (a : Rat) :
    timerTick^[k] (s.setAcc a) = (timerTick^[k] s).setAcc a := by
  induction k generalizing s with
  | zero => rfl
  | succ k ih => rw [Function.iterate_succ_apply, Function.iterate_succ_apply, timerTick_setAcc, ih]

theorem setAcc_setAcc (s : State) (a b : Rat) : (s.setAcc a).setAcc b = s.setAcc b := rfl

/-- The number of timer ticks of R122 for an accumulated time. -/
def ticksDue (acc : Rat) : Int := max 0 (⌈acc / Config.timerPeriod⌉ - 1)

theorem ticksDue_of_le {acc : Rat} (h : acc ≤ Config.timerPeriod) : ticksDue acc = 0 := by
  have : acc / Config.timerPeriod ≤ (1 : Int) := by
    rw [div_le_iff₀ timerPeriod_pos]
    simpa using h
  exact max_eq_left (by linarith [Int.ceil_le.mpr this])

/-- One period more is one tick more. -/
theorem ticksDue_of_gt {acc : Rat} (h : acc > Config.timerPeriod) :
    ticksDue acc = ticksDue (acc - Config.timerPeriod) + 1 := by
  have two_le : (1 : Int) < ⌈acc / Config.timerPeriod⌉ := by
    rw [Int.lt_ceil, lt_div_iff₀ timerPeriod_pos]
    simpa using h
  unfold ticksDue
  rw [sub_div, div_self timerPeriod_pos.ne', Int.ceil_sub_one]
  omega

/-- A loop with enough turns performs the ticks due and takes as many periods off the accumulator (R122). -/
theorem drainAcc_eq_iterate {n : Nat} {s : State} (enough : s.acc ≤ (n + 1) * Config.timerPeriod) :
    ∃ k : Nat, (k : Int) = ticksDue s.acc ∧
      drainAcc n s = (timerTick^[k] s).setAcc (s.acc - k * Config.timerPeriod) := by
  induction n generalizing s with
  | zero =>
    refine ⟨0, (ticksDue_of_le (by simpa using enough)).symm, ?_⟩
    simp only [Nat.cast_zero, zero_mul, sub_zero]
    rfl
  | succ n ih =>
    by_cases within : s.acc ≤ Config.timerPeriod
    · refine ⟨0, (ticksDue_of_le within).symm, ?_⟩
      rw [drainAcc_le within]
      simp only [Nat.cast_zero, zero_mul, sub_zero]
      rfl
    · have overdue := not_le.mp within
      obtain ⟨k, count, drained⟩ := ih (s := (timerTick s).setAcc (s.acc - Config.timerPeriod)) (by
        push_cast at enough
        simp only [State.setAcc_acc]
        linarith)
      refine ⟨k + 1, ?_, ?_⟩
      · rw [ticksDue_of_gt overdue, Nat.cast_succ, count, State.setAcc_acc]
      · rw [drainAcc_gt overdue, drained, iterate_timerTick_setAcc, setAcc_setAcc, Function.iterate_succ_apply,
          State.setAcc_acc]
        congr 1
        push_cast
        ring

/-- Settles O55: the loop on the accumulator with the elapsed time added has enough turns. -/
theorem advanceCountsTicks : Obligations.AdvanceCountsTicks := by
  intro elapsed s elapsed_nonneg acc_nonneg _
  have advanced := Exceptions.advance_of_nonneg elapsed_nonneg s
  obtain ⟨k, count, drained⟩ := drainAcc_eq_iterate (s := s.setAcc (s.acc + elapsed)) (drainFuel_enough _)
  refine ⟨k, _, count, advanced, ?_, drainAcc_acc_nonneg _ _ (add_nonneg acc_nonneg elapsed_nonneg),
    drainAcc_acc_le _ _ (drainFuel_enough _)⟩
  rw [State.setAcc_acc] at drained
  rw [drained, iterate_timerTick_setAcc, setAcc_setAcc]

theorem drainAcc_timers_le (n : Nat) (s : State) :
    (drainAcc n s).DT.toNat ≤ s.DT.toNat ∧ (drainAcc n s).ST.toNat ≤ s.ST.toNat := by
  induction n generalizing s with
  | zero => exact ⟨le_rfl, le_rfl⟩
  | succ n ih =>
    by_cases within : s.acc ≤ Config.timerPeriod
    · rw [drainAcc_le within]
      exact ⟨le_rfl, le_rfl⟩
    · rw [drainAcc_gt (not_le.mp within)]
      obtain ⟨delay, sound⟩ := ih ((timerTick s).setAcc (s.acc - Config.timerPeriod))
      simp only [State.setAcc_DT, State.setAcc_ST, timerTick_DT, timerTick_ST, decTimer_toNat] at delay sound
      omega

/-- The loop after any change of the accumulator, with timers and accumulator put back as they were. -/
theorem drainAcc_setAcc_restored (n : Nat) (s : State) (a : Rat) :
    (((drainAcc n (s.setAcc a)).setDT s.DT).setST s.ST).setAcc s.acc = s := by
  rw [drainAcc_eq]
  simp only [State.setDT, State.setST, State.setAcc]

/-- Settles O56: every turn of the loop only counts down, and the loop writes the timers and the accumulator only. -/
theorem timersNeverRise : Obligations.TimersNeverRise := by
  intro elapsed s t h
  obtain ⟨-, rfl⟩ := Invariant.advance_cases h
  obtain ⟨delay, sound⟩ := drainAcc_timers_le (drainFuel (s.acc + elapsed)) (s.setAcc (s.acc + elapsed))
  rw [State.setAcc_DT] at delay
  rw [State.setAcc_ST] at sound
  exact ⟨delay, sound, drainAcc_setAcc_restored _ s _⟩

/-! ## Load -/

/-- Settles O53: the bytes copied are read back, and the other parts are as one load leaves them. -/
theorem loadCopiesAndTruncates : Obligations.LoadCopiesAndTruncates := by
  intro bytes size s wf enough
  have copied : (bytes.take (min size Config.loadCapacity)).length = min size 3584 := by
    simp only [List.length_take, Config.loadCapacity]
    omega
  refine ⟨Invariant.afterLoad bytes size s, Invariant.load_of_le enough s, fun k hk => ?_, fun a ha outside => ?_, ?_⟩
  · rw [Invariant.afterLoad_mem, memRead_storeBytes_same wf _ _ (by omega) k (by omega), List.getElem_take,
      List.getD_eq_getElem]
  · rw [Invariant.afterLoad_mem]
    refine memRead_storeBytes_other _ _ _ _ fun k hk => ?_
    simp only [a12, Config.memSize, Config.progOrigin]
    omega
  · rw [Invariant.afterLoad_eq]
    exact ⟨rfl, rfl, fun _ => rfl, rfl, rfl, rfl, rfl, rfl, ⟨rfl, rfl⟩, rfl, rfl⟩

/-! ## Reset -/

theorem resetOp_default_font (s : State) : resetOp Config.font s = (State.reset.setDiag s.diag).setDraws s.draws := by
  rw [resetOp, storeBytes_default_font]
  rfl

theorem resetOp_mem (font : Font) (s : State) :
    (resetOp font s).mem = storeBytes [] Config.fontBase font.toList := rfl

/-- Outside the font, memory after `Reset` reads as zero (10_state R28). -/
theorem memRead_resetOp_outside (font : Font) (s : State) {a : Nat} (ha : a < 4096)
    (outside : ¬ (0x50 ≤ a ∧ a < 0xA0)) : memRead (resetOp font s).mem a = 0 := by
  have wrapped : a12 a = a := Nat.mod_eq_of_lt ha
  rw [resetOp_mem, memRead_storeBytes_other, memRead, Memory.lookup, wrapped, resetByte, if_neg outside]
  intro k hk
  rw [Vector.length_toList] at hk
  simp only [a12, Config.memSize, Config.fontBase]
  omega

theorem memRead_resetOp_font (font : Font) (s : State) (k : Fin 80) :
    memRead (resetOp font s).mem (0x50 + k.val) = font.get k := by
  have in_font : k.val < font.toList.length := by simp
  rw [resetOp_mem, memRead_storeBytes_same rfl _ _ (by simp) k.val in_font]
  simp [Vector.get_eq_getElem]

theorem resetOp_asAfterReset (font : Font) (s : State) : AsAfterReset font (resetOp font s) := by
  refine ⟨fun a => memRead_resetOp_outside font s, memRead_resetOp_font font s, fun r => ?_, rfl, rfl, rfl, fun k => ?_,
    Display.pixel_zero, fun k _ => BitVec.getLsbD_zero, rfl, rfl, rfl⟩
  · exact Vector.getElem_replicate _
  · exact Vector.getElem_replicate _

/-- Settles O51: part by part for `Reset`; the state the machine begins in is `Reset` of itself with the default
font. -/
theorem resetValues : Obligations.ResetValues := by
  refine ⟨resetOp_asAfterReset, ?_⟩
  have fixed : resetOp Config.font State.reset = State.reset := resetOp_default_font State.reset
  exact fixed ▸ resetOp_asAfterReset Config.font State.reset

/-- Settles O52: `Reset` takes nothing from the state but the two parts it leaves alone. -/
theorem resetIsIdempotent : Obligations.ResetIsIdempotent :=
  ⟨fun _ _ _ => ⟨rfl, rfl, rfl, rfl⟩, resetOp_default_font⟩

/-! ## Reads -/

/-- Settles O59: entry `k` of the list is bit `k` of the display. -/
theorem hostReads : Obligations.HostReads := by
  intro s
  refine ⟨by simp [getDisplay], fun px hx py hy => ?_, rfl, rfl, rfl⟩
  have inside : py * 64 + px < 2048 := pixelIndex_lt hx hy
  simp [getDisplay, inside, pixel, pixelIndex]

end Sys2Proof.Proofs.HostCalls
end

section
/-! The executor step (30_encoding R45, 10_state R14): what it fetches, what it runs and where it goes. -/

namespace Sys2Proof.Proofs.Stepping

open Sys2Proof.Machine Sys2Proof.Safety

/-- Settles O5: the arms of these instructions take neither the ignored nibble nor `y`. -/
theorem ignoredBitsHaveNoEffect : Obligations.IgnoredBitsHaveNoEffect := fun _ _ _ _ _ _ => ⟨rfl, rfl, rfl, rfl⟩

/-- Settles O6: the lemma about a step whose word decodes. -/
theorem stepRunsDecodedInstruction : Obligations.StepRunsDecodedInstruction := fun _ _ => Exceptions.step_of_decoded

/-! ## A word stored at `pc` -/

/-- A fetch sees the word stored at its address, the top of memory included (20_memory R34, R35). -/
theorem fetch16_storeBytes {m : Memory} (wf : Memory.wf m = true) (pc op : Word) :
    fetch16 (storeBytes m pc.toNat [highByte op, lowByte op]) pc = op := by
  have high := memRead_storeBytes_same wf pc.toNat [highByte op, lowByte op] (by simp) 0 (by simp)
  have low := memRead_storeBytes_same wf pc.toNat [highByte op, lowByte op] (by simp) 1 (by simp)
  rw [Nat.add_zero] at high
  rw [fetch16, high, low]
  exact wordOfBytes_bytes op

theorem fetch16_withFetchWord {s : State} (wf : Memory.wf s.mem = true) (op : Word) :
    fetch16 (s.withFetchWord 16 op.toNat).mem (s.withFetchWord 16 op.toNat).pc = op := by
  have whole : BitVec.ofNat 16 (op.toNat % 2 ^ 16) = op := by
    rw [Nat.mod_eq_of_lt op.isLt, BitVec.ofNat_toNat, BitVec.setWidth_eq]
  rw [State.withFetchWord, whole]
  exact fetch16_storeBytes wf s.pc op

/-- Settles O7: the fetch sees the stored word, and it decodes to the instruction. -/
theorem storedWordIsRun : Obligations.StoredWordIsRun := by
  intro s i wf wellFormed
  apply Exceptions.step_of_decoded
  rw [fetch16_withFetchWord wf]
  exact Encoding.encodeThenDecode i wellFormed

/-! ## A jump to itself -/

theorem zextAddr_setWidth {a : Word} (h : a.toNat < 4096) : zextAddr (a.setWidth 12) = a := by
  apply BitVec.eq_of_toNat_eq
  rw [zextAddr_toNat, BitVec.toNat_setWidth]
  exact Nat.mod_eq_of_lt h

theorem encode_jump_to {a : Word} (h : a.toNat < 4096) : encode (.jpNnn (a.setWidth 12)) = 0x1000#16 ||| a := by
  apply BitVec.eq_of_toNat_eq
  rw [encode, encodeA_toNat (by decide), BitVec.toNat_or, BitVec.toNat_setWidth, Nat.mod_eq_of_lt h]
  exact Nat.two_pow_add_eq_or_of_lt (i := 12) h 1

/-- Settles O11: the word at `pc` is the encoding of a jump to `pc`, whose only write is the value `pc` has. -/
theorem selfJumpChangesNothing : Obligations.SelfJumpChangesNothing := by
  intro s low fetched
  have decoded : decode (fetch16 s.mem s.pc) = .ok (.jpNnn (s.pc.setWidth 12)) := by
    rw [fetched, ← encode_jump_to low]
    exact Encoding.encodeThenDecode _ rfl
  rw [Exceptions.step_of_decoded decoded, ControlFlow.exec_jpNnn, zextAddr_setWidth low]
  rfl

/-! ## Where a step goes -/

theorem skipIf_pc_cases (s : State) (c : Bool) : (s.skipIf c).pc = s.pc + 2 ∨ (s.skipIf c).pc = s.pc + 4 := by
  cases c
  · exact .inl rfl
  · exact .inr rfl

/-- What an executed instruction does to `pc`, as R14 lists it. -/
def PcOutcome (s t : State) : Instr → Prop
  | .jpNnn nnn => t.pc = nnn.setWidth 16
  | .jpV0Nnn nnn => t.pc = nnn.setWidth 16 + (s.readV 0).setWidth 16
  | .callNnn nnn => t.pc = if s.sp.val = 16 then s.pc + 2 else nnn.setWidth 16
  | .ret => if s.sp.val = 0 then t.pc = s.pc + 2 else ∃ k : Fin 16, k.val + 1 = s.sp.val ∧ t.pc = s.stack.get k
  | .ldVxK _ => (NoKeyDown s → t = s) ∧ (¬ NoKeyDown s → t.pc = s.pc + 2)
  | i => if isSkip i = true then t.pc = s.pc + 2 ∨ t.pc = s.pc + 4 else t.pc = s.pc + 2

theorem exec_answers_pcOutcome (i : Instr) (s : State) : ∃ t, exec i s = .next t ∧ PcOutcome s t i := by
  cases i with
  | jpNnn | jpV0Nnn => exact ⟨_, rfl, rfl⟩
  | callNnn nnn =>
    exact Writers.exec_callNnn_answers nnn (fun full => (if_pos full).symm)
      (fun room => (if_neg (show ¬ s.sp.val = 16 by omega)).symm)
  | ret =>
    refine Writers.exec_ret_answers (fun empty => ?_) (fun nonempty => ?_)
    · exact (if_pos empty).mpr rfl
    · exact (if_neg nonempty).mpr ⟨⟨s.sp.val - 1, by omega⟩, Nat.succ_pred nonempty, rfl⟩
  | ldVxK x =>
    refine Writers.exec_ldVxK_answers x (fun captured => ?_) (fun k captured => ?_)
    · exact ⟨fun _ => rfl, fun some_down => absurd ((lowestKey_eq_none s.key).mp captured) some_down⟩
    · refine ⟨fun none_down => ?_, fun _ => rfl⟩
      rw [(lowestKey_eq_none s.key).mpr none_down] at captured
      cases captured
  | seVxKk | sneVxKk | seVxVy | sneVxVy | skpVx | sknpVx => exact ⟨_, rfl, skipIf_pc_cases s _⟩
  | ldVxMemI x =>
    refine ⟨_, rfl, ?_⟩
    rw [State.writeRegs_eq]
    rfl
  | cls | ldVxKk | addVxKk | ldVxVy | orVxVy | andVxVy | xorVxVy | addVxVy | subVxVy | shrVx | subnVxVy | shlVx
  | ldINnn | rndVxKk | drwVxVyN | ldVxDT | ldDTVx | ldSTVx | addIVx | ldFVx | ldBVx | ldMemIVx => exact ⟨_, rfl, rfl⟩

theorem exec_pcOutcome {i : Instr} {s t : State} (h : exec i s = .next t) : PcOutcome s t i := by
  obtain ⟨u, answered, outcome⟩ := exec_answers_pcOutcome i s
  cases answered.symm.trans h
  exact outcome

/-- Settles O10: the outcome of the decoded instruction, or `pc + 2` after a decode error. -/
theorem pcOutcomesAreComplete : Obligations.PcOutcomesAreComplete := by
  intro s t h
  obtain ⟨i, fetched, executed⟩ | ⟨⟨e, rejected⟩, rfl⟩ := Writers.step_cases h
  · have outcome := exec_pcOutcome executed
    rw [fetched]
    cases i <;> exact outcome
  · rw [rejected]
    rfl

end Sys2Proof.Proofs.Stepping
end

section
/-! Control transfer (40_control_flow): the call stack, the skips on registers and the jump with offset. -/

namespace Sys2Proof.Proofs.Calls

open Sys2Proof.Machine Sys2Proof.Safety

/-! ## The frame of what RET and CALL write -/

theorem onlyStackDiagAndPc_reportAndSkip (s : State) (d : Diag) : OnlyStackDiagAndPc s (s.reportAndSkip d) :=
  ⟨fun _ => rfl, rfl, rfl, fun _ => rfl, ⟨rfl, rfl⟩, rfl, rfl⟩

theorem onlyStackDiagAndPc_drop_setPc (s : State) (a : Word) : OnlyStackDiagAndPc s (s.drop.setPc a) :=
  ⟨fun _ => rfl, rfl, rfl, fun _ => rfl, ⟨rfl, rfl⟩, rfl, rfl⟩

theorem onlyStackDiagAndPc_push_setPc (s : State) (a b : Word) (h : s.sp.val < 16) :
    OnlyStackDiagAndPc s ((s.push a h).setPc b) :=
  ⟨fun _ => rfl, rfl, rfl, fun _ => rfl, ⟨rfl, rfl⟩, rfl, rfl⟩

/-! ## RET and CALL -/

theorem top_eq_get (s : State) (h : s.sp.val ≠ 0) {k : Fin 16} (hk : k.val + 1 = s.sp.val) :
    s.top h = s.stack.get k := by
  have slot : (⟨s.sp.val - 1, by omega⟩ : Fin 16) = k := Fin.ext (by simp only; omega)
  rw [State.top, slot]

/-- Settles O12: the two cases of RET. -/
theorem retPopsIntoPc : Obligations.RetPopsIntoPc := by
  intro s
  refine Writers.exec_ret_answers (fun empty => ?_) (fun nonempty => ?_)
  · refine ⟨onlyStackDiagAndPc_reportAndSkip s _, rfl, fun _ => ⟨rfl, rfl, rfl⟩, fun k hk => ?_⟩
    omega
  · refine ⟨onlyStackDiagAndPc_drop_setPc s _, rfl, fun empty => absurd empty nonempty,
      fun k hk => ⟨top_eq_get s nonempty hk, ?_, rfl⟩⟩
    rw [State.setPc_sp, State.drop_sp]
    omega

/-- Settles O14: the two cases of CALL. -/
theorem callPushesReturnAddress : Obligations.CallPushesReturnAddress := by
  intro nnn s
  refine Writers.exec_callNnn_answers nnn (fun full => ?_) (fun room => ?_)
  · exact ⟨onlyStackDiagAndPc_reportAndSkip s _, fun _ => ⟨rfl, rfl, rfl, rfl⟩, fun room => absurd full room⟩
  · exact ⟨onlyStackDiagAndPc_push_setPc s _ _ room, fun full => absurd full room.ne,
      fun _ => ⟨zextAddr_toNat nnn, rfl, rfl, State.push_get s _ room⟩⟩

/-! ## Nested calls -/

/-- Two lists of instructions, one after the other. -/
theorem execAll_append {is : List Instr} {s t : State} (h : execAll is s = .next t) (js : List Instr) :
    execAll (is ++ js) s = execAll js t := by
  induction is generalizing s with
  | nil => cases h; rfl
  | cons i is ih =>
    obtain ⟨u, executed, -⟩ := Exceptions.exec_answers_keeping_key i s
    simp only [execAll, executed] at h
    simp only [List.cons_append, execAll, executed]
    exact ih h

theorem execAll_cons {i : Instr} {s t : State} (h : exec i s = .next t) (is : List Instr) :
    execAll (i :: is) s = execAll is t := by
  simp only [execAll, h]

/-- Depth and output as they were, and the slots below the depth: what calls and as many returns keep. -/
def SameLiveStack (s t : State) : Prop :=
  t.sp = s.sp ∧ t.diag = s.diag ∧ ∀ k : Fin 16, k.val < s.sp.val → t.stack.get k = s.stack.get k

/-- One call around what keeps the live stack, then a return (40_control_flow R69). -/
theorem exec_ret_of_sameLiveStack_push {s t : State} (room : s.sp.val < 16) {nnn : BitVec 12}
    (kept : SameLiveStack ((s.push (s.pc + 2) room).setPc (zextAddr nnn)) t) :
    ∃ u, exec .ret t = .next u ∧ u.pc = s.pc + 2 ∧ SameLiveStack s u := by
  obtain ⟨depth, output, slots⟩ := kept
  rw [State.setPc_sp] at depth
  have depth_val : t.sp.val = s.sp.val + 1 := by rw [depth, State.push_sp]
  have slot (k : Fin 16) (hk : k.val ≤ s.sp.val) :
      t.stack.get k = if k.val = s.sp.val then s.pc + 2 else s.stack.get k := by
    rw [slots k (by rw [State.setPc_sp, State.push_sp]; omega), State.setPc_stack, State.push_get]
  refine Writers.exec_ret_answers (fun empty => by omega) (fun nonempty => ⟨?_, ?_, output, fun k hk => ?_⟩)
  · rw [State.setPc_pc, top_eq_get t nonempty (k := ⟨s.sp.val, room⟩) depth_val.symm, slot _ le_rfl, if_pos rfl]
  · apply Fin.ext
    rw [State.setPc_sp, State.drop_sp]
    omega
  · rw [State.setPc_stack, State.drop_stack, slot k hk.le, if_neg hk.ne]

theorem nested_calls_keep_live_stack (targets : List (BitVec 12)) (s : State)
    (room : s.sp.val + targets.length ≤ 16) :
    ∃ t, execAll (targets.map Instr.callNnn ++ List.replicate targets.length Instr.ret) s = .next t ∧
      (targets ≠ [] → t.pc = s.pc + 2) ∧ SameLiveStack s t := by
  induction targets generalizing s with
  | nil => exact ⟨s, rfl, absurd rfl, rfl, rfl, fun _ _ => rfl⟩
  | cons nnn targets ih =>
    rw [List.length_cons] at room
    have called := execCallNnn_push (s := s) (by omega) nnn
    obtain ⟨t, inner, -, kept⟩ := ih ((s.push (s.pc + 2) (by omega)).setPc (zextAddr nnn)) (by
      rw [State.setPc_sp, State.push_sp]
      omega)
    obtain ⟨u, returned, pc_u, kept_u⟩ := exec_ret_of_sameLiveStack_push _ kept
    refine ⟨u, ?_, fun _ => pc_u, kept_u⟩
    rw [List.length_cons, List.map_cons, List.replicate_succ', List.cons_append, ← List.append_assoc,
      execAll_cons (i := .callNnn nnn) called, execAll_append inner, execAll_cons returned]
    rfl

/-- Settles O18: the calls after the first and their returns keep the live stack, so the last return is the first
call's. -/
theorem nestedCallsReturn : Obligations.NestedCallsReturn := by
  intro s nnn targets room
  obtain ⟨t, ran, pc, depth, output, slots⟩ := nested_calls_keep_live_stack (nnn :: targets) s room
  exact ⟨t, ran, pc (List.cons_ne_nil nnn targets), depth, output, slots⟩

/-! ## Skips on registers, and the jump with offset -/

theorem exec_seVxVy (x y : Reg) (pad : BitVec 4) (s : State) :
    exec (.seVxVy x y pad) s = .next (s.skipIf (s.readV x == s.readV y)) := rfl

theorem exec_sneVxVy (x y : Reg) (pad : BitVec 4) (s : State) :
    exec (.sneVxVy x y pad) s = .next (s.skipIf (s.readV x != s.readV y)) := rfl

/-- Settles O16: both instructions are skips, and their tests decide `Vx = Vy` and `Vx ≠ Vy`. -/
theorem registerSkips : Obligations.RegisterSkips := by
  intro x y pad s
  exact ⟨ControlFlow.skip_changes_only_pc (exec_seVxVy x y pad s) beq_iff_eq,
    ControlFlow.skip_changes_only_pc (exec_sneVxVy x y pad s) bne_iff_ne⟩

/-- The sum of a 12-bit literal and a byte does not wrap (D3). -/
theorem zextAddr_add_zextByte_toNat (nnn : BitVec 12) (b : Byte) :
    (zextAddr nnn + zextByte b).toNat = nnn.toNat + b.toNat := by
  have := nnn.isLt
  have := b.isLt
  rw [BitVec.toNat_add, zextAddr_toNat, zextByte_toNat]
  omega

/-- Settles O17: one write of `pc`, with a sum of at most 0xFFF + 0xFF. -/
theorem jumpWithOffset : Obligations.JumpWithOffset := by
  intro nnn s
  have target := zextAddr_add_zextByte_toNat nnn (s.readV 0)
  have := nnn.isLt
  have := (s.readV 0).isLt
  refine ⟨_, rfl, ControlFlow.onlyPc_setPc s _, target, ?_⟩
  rw [State.setPc_pc, target]
  omega

end Sys2Proof.Proofs.Calls
end

section
/-! Copy, logic, arithmetic, shifts and random (41_load_alu): one result, with or without a flag. -/

namespace Sys2Proof.Proofs.Alu

open Sys2Proof.Machine Sys2Proof.Safety Sys2Proof.Proofs.LoadAlu

/-! ## One result and a flag -/

section
variable (s : State) (x q : Reg) (b flag : Byte)

@[simp] theorem resultWithFlag_readV :
    (s.resultWithFlag x b flag).readV q = if q = 15 then flag else if q = x then b else s.readV q := by
  rw [State.resultWithFlag, State.nextInstr_readV, State.readV_writeWithFlag]

theorem resultWithFlag_readV_flag : (s.resultWithFlag x b flag).readV 15 = flag := by
  rw [resultWithFlag_readV, if_pos rfl]

theorem resultWithFlag_readV_result {x : Reg} (h : x ≠ 15) : (s.resultWithFlag x b flag).readV x = b := by
  rw [resultWithFlag_readV, if_neg h, if_pos rfl]

theorem onlyRegsAndPc_resultWithFlag : OnlyRegsAndPc s (s.resultWithFlag x b flag) :=
  onlyRegsAndPc_result (s.writeV x b) regF flag

end

/-- The shape of the instructions without a flag (41_load_alu R70 to R75): of the result in `V[x]`, `p` holds. -/
theorem result_answers {s : State} {x : Reg} {b : Byte} {answer : Answer} (hanswer : answer = .next (s.result x b))
    {p : Byte → Prop} (result : p b) :
    ∃ t, answer = .next t ∧ p (t.readV x) ∧ t.pc = s.pc + 2 ∧ SameRegsBut [x] s t ∧ OnlyRegsAndPc s t :=
  ⟨s.result x b, hanswer, by rwa [result_readV_self], result_pc s x b, sameRegsBut_result s x b,
    onlyRegsAndPc_result s x b⟩

/-- The shape of the instructions with a flag (41_load_alu R76 to R80, R83): of the result, unless its register is `VF`,
`p` holds, and `q` holds of the flag. -/
theorem resultWithFlag_answers {s : State} {x : Reg} {b flag : Byte} {answer : Answer}
    (hanswer : answer = .next (s.resultWithFlag x b flag)) {p q : Byte → Prop} (result : p b) (hflag : q flag) :
    ∃ t, answer = .next t ∧ (x ≠ 15 → p (t.readV x)) ∧ q (t.readV 15) ∧ t.pc = s.pc + 2 ∧ SameRegsBut [x, 15] s t ∧
      OnlyRegsAndPc s t := by
  refine ⟨s.resultWithFlag x b flag, hanswer, fun h => ?_, ?_, rfl, Writers.sameRegsBut_resultWithFlag s x b flag,
    onlyRegsAndPc_resultWithFlag s x b flag⟩
  · rwa [resultWithFlag_readV_result s b flag h]
  · rwa [resultWithFlag_readV_flag]

/-! ## The flags as numbers -/

theorem flagByte_decide (p : Prop) [Decidable p] : flagByte (decide p) = if p then 1 else 0 := by
  by_cases h : p <;> simp [flagByte, h]

theorem carryOut_eq (a b : Byte) : carryOut a b = if a.toNat + b.toNat > 255 then 1 else 0 := flagByte_decide _

theorem notBorrow_eq (a b : Byte) : notBorrow a b = if a.toNat ≥ b.toNat then 1 else 0 := flagByte_decide _

theorem bitOutRight_toNat (a : Byte) : (bitOutRight a).toNat = a.toNat % 2 := by
  rw [bitOutRight, BitVec.getLsbD, Nat.testBit_zero, flagByte_decide]
  split <;> simp <;> omega

theorem bitOutLeft_toNat (a : Byte) : (bitOutLeft a).toNat = a.toNat / 128 := by
  have := a.isLt
  rw [bitOutLeft, BitVec.getLsbD, Nat.testBit_eq_decide_div_mod_eq, flagByte_decide]
  split <;> simp <;> omega

theorem sub_toNat (a b : Byte) : (a - b).toNat = (256 + a.toNat - b.toNat) % 256 := by
  have := b.isLt
  rw [BitVec.toNat_sub]
  omega

theorem shiftRight_one_toNat (a : Byte) : (a >>> 1).toNat = a.toNat / 2 := by
  rw [BitVec.toNat_ushiftRight, Nat.shiftRight_eq_div_pow, pow_one]

theorem shiftLeft_one_toNat (a : Byte) : (a <<< 1).toNat = 2 * a.toNat % 256 := by
  rw [BitVec.toNat_shiftLeft, Nat.shiftLeft_eq, pow_one, mul_comm]

/-! ## The obligations -/

/-- Settles O20: each instruction writes one result, whose bits are those of the operation. -/
theorem copyAndLogic : Obligations.CopyAndLogic := by
  intro x y s
  exact ⟨result_answers (answer := exec (.ldVxVy x y) s) rfl (p := (· = s.readV y)) rfl,
    result_answers (answer := exec (.orVxVy x y) s) rfl
      (p := fun b => ∀ k, b.getLsbD k = ((s.readV x).getLsbD k || (s.readV y).getLsbD k)) fun _ => BitVec.getLsbD_or,
    result_answers (answer := exec (.andVxVy x y) s) rfl
      (p := fun b => ∀ k, b.getLsbD k = ((s.readV x).getLsbD k && (s.readV y).getLsbD k)) fun _ => BitVec.getLsbD_and,
    result_answers (answer := exec (.xorVxVy x y) s) rfl
      (p := fun b => ∀ k, b.getLsbD k = ((s.readV x).getLsbD k != (s.readV y).getLsbD k)) fun _ => BitVec.getLsbD_xor⟩

/-- Settles O21: the sum, then the carry. -/
theorem addSetsCarry : Obligations.AddSetsCarry := by
  intro x y s
  exact resultWithFlag_answers (answer := exec (.addVxVy x y) s) rfl
    (p := fun b => b.toNat = ((s.readV x).toNat + (s.readV y).toNat) % 256) (q := (· = _))
    (BitVec.toNat_add ..) (carryOut_eq ..)

/-- Settles O22: the difference, then not-borrow, with the operands in either order. -/
theorem subtractSetsNotBorrow : Obligations.SubtractSetsNotBorrow := by
  intro x y s
  exact ⟨resultWithFlag_answers (answer := exec (.subVxVy x y) s) rfl
      (p := fun b => b.toNat = (256 + (s.readV x).toNat - (s.readV y).toNat) % 256) (q := (· = _))
      (sub_toNat ..) (notBorrow_eq ..),
    resultWithFlag_answers (answer := exec (.subnVxVy x y) s) rfl
      (p := fun b => b.toNat = (256 + (s.readV y).toNat - (s.readV x).toNat) % 256) (q := (· = _))
      (sub_toNat ..) (notBorrow_eq ..)⟩

/-- Settles O23: the shifted operand, then the bit put out. -/
theorem shiftsPutOutOneBit : Obligations.ShiftsPutOutOneBit := by
  intro x y s
  exact ⟨resultWithFlag_answers (answer := exec (.shrVx x y) s) rfl
      (p := fun b => b.toNat = (s.readV x).toNat / 2) (q := fun f => f.toNat = (s.readV x).toNat % 2)
      (shiftRight_one_toNat _) (bitOutRight_toNat _),
    resultWithFlag_answers (answer := exec (.shlVx x y) s) rfl
      (p := fun b => b.toNat = 2 * (s.readV x).toNat % 256) (q := fun f => f.toNat = (s.readV x).toNat / 128)
      (shiftLeft_one_toNat _) (bitOutLeft_toNat _)⟩

theorem and_and_not (a b : Byte) : a &&& b &&& ~~~b = 0 := by
  rw [BitVec.and_assoc, BitVec.and_not_self]
  exact BitVec.and_zero

/-- Settles O24: one result, the drawn byte and-ed with the literal, and one more draw. -/
theorem randomIsMasked : Obligations.RandomIsMasked := by
  intro x kk s
  have drawn : (s.result x (Config.freeByte s.draws &&& kk)).readV x = Config.freeByte s.draws &&& kk :=
    result_readV_self s x _
  have masked : (s.result x (Config.freeByte s.draws &&& kk)).readV x &&& ~~~kk = 0 := by rw [drawn, and_and_not]
  exact ⟨_, rfl, drawn, masked, rfl, rfl, sameRegsBut_result s x (Config.freeByte s.draws &&& kk),
    onlyRegsAndPc_result s x (Config.freeByte s.draws &&& kk)⟩

theorem resultWithFlag_flagByte (s : State) (x : Reg) (b : Byte) (c : Bool) :
    (s.resultWithFlag x b (flagByte c)).readV 15 = 0 ∨ (s.resultWithFlag x b (flagByte c)).readV 15 = 1 := by
  rw [resultWithFlag_readV_flag]
  exact flagByte_zero_or_one c

theorem result_flagByte (s : State) (c : Bool) :
    (s.result regF (flagByte c)).readV 15 = 0 ∨ (s.result regF (flagByte c)).readV 15 = 1 := by
  rw [show (s.result regF (flagByte c)).readV 15 = flagByte c from result_readV_self s regF _]
  exact flagByte_zero_or_one c

/-- Settles O25: what each flag writer leaves in `VF` is a flag value. -/
theorem flagWritersLeaveZeroOrOne : Obligations.FlagWritersLeaveZeroOrOne := by
  intro i s t writer h
  cases i with
  | addVxVy x | subVxVy x | shrVx x | subnVxVy x | shlVx x =>
    cases h
    exact resultWithFlag_flagByte s x _ _
  | drwVxVyN x y n =>
    cases h
    exact result_flagByte (s.setDisplay _) _
  | _ => cases writer

end Sys2Proof.Proofs.Alu
end

section
/-! The index register and memory (42_index_memory, 20_memory): stores at `I`, loads from `I`, the wrap of addresses,
and the canonical form. -/

namespace Sys2Proof.Proofs.MemoryAccess

open Sys2Proof.Machine Sys2Proof.Safety

/-! ## The index register -/

/-- Settles O28: each instruction is one write of `I` and a step to the next one. -/
theorem indexAddAndGlyphAddress : Obligations.IndexAddAndGlyphAddress := by
  intro x s
  have sum : (s.I + zextByte (s.readV x)).toNat = (s.I.toNat + (s.readV x).toNat) % 65536 := by
    rw [BitVec.toNat_add, zextByte_toNat]
  exact ⟨⟨_, rfl, sum, rfl, IndexMemory.onlyIndexAndPc_setI_nextInstr s _⟩,
    ⟨_, rfl, glyphAddr_toNat _, rfl, IndexMemory.onlyIndexAndPc_setI_nextInstr s _⟩⟩

/-! ## Stores at `I` -/

theorem onlyMemAndPc_setMem_nextInstr (s : State) (m : Memory) : OnlyMemAndPc s (s.setMem m).nextInstr :=
  ⟨fun _ => rfl, rfl, rfl, ⟨rfl, rfl⟩, rfl, rfl, rfl, rfl, rfl⟩

/-- The shape of the two stores (42_index_memory R88, R89): the bytes are read back from `I` on, and nothing else
changes but `pc`. -/
theorem store_answers {s : State} (wf : Memory.wf s.mem = true) {bs : List Byte} (short : bs.length ≤ 16)
    {answer : Answer}
    (hanswer : answer = .next (s.setMem (storeBytes s.mem (dataAddr s 0) bs)).nextInstr) :
    ∃ t, answer = .next t ∧ (∀ k (h : k < bs.length), memRead t.mem (s.I.toNat + k) = bs[k]) ∧
      SameMemOutside (dataAddr s 0) bs.length s t ∧ t.pc = s.pc + 2 ∧ OnlyMemAndPc s t :=
  ⟨_, hanswer, memRead_storeBytes_same wf s.I.toNat bs (by omega),
    memRead_storeBytes_other s.mem (dataAddr s 0) bs, rfl, onlyMemAndPc_setMem_nextInstr s _⟩

@[simp] theorem bcdDigits_length (b : Byte) : (bcdDigits b).length = 3 := rfl

/-- Settles O29: a store of the three digits, each of which is below 256. -/
theorem bcdStoresThreeDigits : Obligations.BcdStoresThreeDigits := by
  intro x s wf
  obtain ⟨t, executed, stored, outside, pc, frame⟩ :=
    store_answers wf (bs := bcdDigits (s.readV x)) (by simp) (answer := exec (.ldBVx x) s) rfl
  have byte_lt := (s.readV x).isLt
  have digit {n : Nat} (h : n < 256) : (BitVec.ofNat 8 n).toNat = n := by
    rw [BitVec.toNat_ofNat, Nat.mod_eq_of_lt h]
  have hundreds : memRead t.mem s.I.toNat = BitVec.ofNat 8 ((s.readV x).toNat / 100) := stored 0 (by simp)
  have tens : memRead t.mem (s.I.toNat + 1) = BitVec.ofNat 8 ((s.readV x).toNat / 10 % 10) := stored 1 (by simp)
  have ones : memRead t.mem (s.I.toNat + 2) = BitVec.ofNat 8 ((s.readV x).toNat % 10) := stored 2 (by simp)
  exact ⟨t, executed, by rw [hundreds, digit (by omega)], by rw [tens, digit (by omega)],
    by rw [ones, digit (by omega)], outside, pc, frame⟩

/-- Settles O30: a store of the registers `V0` to `Vx`. -/
theorem bulkStore : Obligations.BulkStore := by
  intro x s wf
  have length := regsThrough_length s x
  obtain ⟨t, executed, stored, outside, pc, frame⟩ :=
    store_answers wf (bs := regsThrough s x) (by omega) (answer := exec (.ldMemIVx x) s) rfl
  refine ⟨t, executed, fun r hr => ?_, length ▸ outside, pc, frame⟩
  have : r.val ≤ x.val := hr
  rw [stored r.val (by omega), regsThrough_getElem]

/-! ## Loads from `I` -/

theorem onlyRegsAndPc_writeRegs_nextInstr (s : State) (bs : List Byte) :
    OnlyRegsAndPc s (s.writeRegs 0 bs).nextInstr := by
  rw [State.writeRegs_eq]
  exact ⟨rfl, rfl, fun _ => rfl, ⟨rfl, rfl⟩, rfl, rfl, rfl, rfl, rfl⟩

theorem writeRegs_nextInstr_pc (s : State) (bs : List Byte) : (s.writeRegs 0 bs).nextInstr.pc = s.pc + 2 := by
  rw [State.writeRegs_eq]
  rfl

/-- Settles O31: the bytes read from `I` on are written to the registers from `V0` on. -/
theorem bulkLoad : Obligations.BulkLoad := by
  intro x s
  have length : (loadBytes s.mem (dataAddr s 0) (x.val + 1)).length = x.val + 1 := loadBytes_length ..
  refine ⟨_, rfl, fun r => ?_, writeRegs_nextInstr_pc s _, onlyRegsAndPc_writeRegs_nextInstr s _⟩
  rw [State.nextInstr_readV, State.readV_writeRegs _ 0 s (by omega)]
  by_cases h : r.val ≤ x.val
  · rw [dif_pos (by omega), if_pos (Fin.le_def.mpr h), loadBytes_getElem]
    rfl
  · rw [dif_neg (by omega), if_neg (mt Fin.le_def.mp h)]

/-- Settles O32: the store leaves `I` alone, so the load reads the bytes it stored. -/
theorem bulkStoreThenLoadRestores : Obligations.BulkStoreThenLoadRestores := by
  intro x z s v wf hz
  obtain ⟨t, stored, bytes, -, -, -, index, -⟩ := bulkStore x s wf
  obtain ⟨u, loaded, regs, -⟩ := bulkLoad z (t.setV v)
  refine ⟨t, u, stored, loaded, fun r hr => ?_⟩
  rw [regs r, if_pos hr, State.setV_mem, State.setV_I, index, bytes r (hr.trans hz)]

/-! ## The canonical form -/

theorem wfFrom_cons_iff {lo k : Nat} {b : Byte} {m : Memory} :
    Memory.wfFrom lo ((k, b) :: m) = true ↔
      lo ≤ k ∧ k < 4096 ∧ b ≠ resetByte k ∧ Memory.wfFrom (k + 1) m = true := by
  simp [Memory.wfFrom, and_assoc]

theorem lookup_head (k : Nat) (b : Byte) (m : Memory) : Memory.lookup ((k, b) :: m) k = b := if_pos rfl

theorem lookup_tail {a k : Nat} (h : a ≠ k) (b : Byte) (m : Memory) :
    Memory.lookup ((k, b) :: m) a = Memory.lookup m a := if_neg h

/-- Two memories read alike at every address below 4096. -/
def ReadAlike (m m' : Memory) : Prop := ∀ a < 4096, Memory.lookup m a = Memory.lookup m' a

/-- A memory that lists an address reads differently there from one that lists only higher addresses. -/
theorem not_readAlike_of_lt {lo lo' k : Nat} {b : Byte} {m m' : Memory}
    (wf : Memory.wfFrom lo ((k, b) :: m) = true) (wf' : Memory.wfFrom lo' m' = true) (lower : k < lo') :
    ¬ ReadAlike ((k, b) :: m) m' := by
  intro alike
  obtain ⟨-, hk, listed, -⟩ := wfFrom_cons_iff.mp wf
  have reads := alike k hk
  rw [lookup_head, Memory.lookup_below wf' lower] at reads
  exact listed reads

theorem readAlike_symm {m m' : Memory} (h : ReadAlike m m') : ReadAlike m' m := fun a ha => (h a ha).symm

/-- Behind equal first cells, canonical memories read alike if the whole memories do. -/
theorem readAlike_tails {k : Nat} {b : Byte} {m m' : Memory} (wf : Memory.wfFrom (k + 1) m = true)
    (wf' : Memory.wfFrom (k + 1) m' = true) (h : ReadAlike ((k, b) :: m) ((k, b) :: m')) : ReadAlike m m' := by
  intro a ha
  by_cases hk : a = k
  · subst hk
    rw [Memory.lookup_below wf (Nat.lt_succ_self a), Memory.lookup_below wf' (Nat.lt_succ_self a)]
  · rw [← lookup_tail hk b m, ← lookup_tail hk b m']
    exact h a ha

theorem eq_of_readAlike {m m' : Memory} {lo lo' : Nat} (wf : Memory.wfFrom lo m = true)
    (wf' : Memory.wfFrom lo' m' = true) (alike : ReadAlike m m') : m = m' := by
  induction m generalizing m' lo lo' with
  | nil =>
    cases m' with
    | nil => rfl
    | cons c m' => exact absurd (readAlike_symm alike) (not_readAlike_of_lt wf' (lo' := c.1 + 1) rfl c.1.lt_succ_self)
  | cons c m ih =>
    obtain ⟨k, b⟩ := c
    cases m' with
    | nil => exact absurd alike (not_readAlike_of_lt wf (lo' := k + 1) rfl k.lt_succ_self)
    | cons c' m' =>
      obtain ⟨k', b'⟩ := c'
      obtain ⟨-, hk, listed, wf_tail⟩ := wfFrom_cons_iff.mp wf
      obtain ⟨-, hk', listed', wf_tail'⟩ := wfFrom_cons_iff.mp wf'
      have from_head : Memory.wfFrom k ((k, b) :: m) = true := wfFrom_cons_iff.mpr ⟨le_rfl, hk, listed, wf_tail⟩
      have from_head' : Memory.wfFrom k' ((k', b') :: m') = true :=
        wfFrom_cons_iff.mpr ⟨le_rfl, hk', listed', wf_tail'⟩
      obtain lower | rfl | higher := lt_trichotomy k k'
      · exact absurd alike (not_readAlike_of_lt wf from_head' lower)
      · have same_byte : b = b' := by simpa [lookup_head] using alike k hk
        subst same_byte
        rw [ih wf_tail wf_tail' (readAlike_tails wf_tail wf_tail' alike)]
      · exact absurd (readAlike_symm alike) (not_readAlike_of_lt wf' from_head higher)

/-- Settles O33: by induction on the lists, whose first cells must be the same. -/
theorem equalMemoriesAreEqualData : Obligations.EqualMemoriesAreEqualData := by
  intro m m' wf wf' same
  refine eq_of_readAlike wf wf' fun a ha => ?_
  have wrapped : a12 a = a := Nat.mod_eq_of_lt ha
  have reads := same a
  rwa [memRead, memRead, wrapped] at reads

/-! ## The wrap of addresses -/

theorem a12_add_4096 (a : Nat) : a12 (a + 4096) = a12 a := Nat.add_mod_right a 4096

theorem wordOfBytes_toNat (hi lo : Byte) : (wordOfBytes hi lo).toNat = hi.toNat * 256 + lo.toNat := by
  have := hi.isLt
  have := lo.isLt
  rw [wordOfBytes, BitVec.toNat_ofNat]
  omega

/-- Settles O34: every access goes through `a12`. -/
theorem accessesWrap : Obligations.AccessesWrap := by
  intro m a b p
  refine ⟨?_, ?_, ?_⟩
  · rw [memRead, a12_add_4096, memRead]
  · rw [memWrite, a12_add_4096, memWrite]
  · rw [fetch16, wordOfBytes_toNat, ← memRead_wraps m p.toNat, ← memRead_wraps m (p.toNat + 1)]
    rfl

end Sys2Proof.Proofs.MemoryAccess
end

section
/-! DRW (43_display R94 to R96): the sprite compositor of `Laws/Display`, spoken of as the pixels a sprite covers. -/

namespace Sys2Proof.Proofs.Draw

open Sys2Proof.Machine Sys2Proof.Safety

/-! ## Covered pixels -/

/-- What the compositor covers when it is given the operands of a DRW is what the DRW covers. -/
theorem spriteCovers_iff (x y : Reg) (n : Nat) (s : State) (px py : Nat) :
    spriteCovers (s.readV x).toNat (s.readV y).toNat 0 (loadBytes s.mem (dataAddr s 0) n) px py ↔
      Covers x y n s px py := by
  constructor
  · rintro ⟨row, hrow, col, hcol, rfl, rfl, bit⟩
    rw [loadBytes_getElem] at bit
    exact ⟨row, by simpa using hrow, col, hcol, rfl, by rw [Nat.zero_add], bit⟩
  · rintro ⟨row, hrow, col, hcol, rfl, rfl, bit⟩
    refine ⟨row, by simpa using hrow, col, hcol, rfl, by rw [Nat.zero_add], ?_⟩
    rw [loadBytes_getElem]
    exact bit

/-- A DRW covers the same pixels from two states that agree on its operands, on `I` and on memory. -/
theorem covers_congr {x y : Reg} {s t : State} (hx : t.readV x = s.readV x) (hy : t.readV y = s.readV y)
    (index : t.I = s.I) (mem : SameMem s t) (n px py : Nat) : Covers x y n t px py ↔ Covers x y n s px py := by
  simp only [Covers, hx, hy, index, mem _]

theorem byte_ne_zero_iff (b : Byte) : b ≠ 0 ↔ ∃ col < 8, b.getLsbD (7 - col) = true := by
  constructor
  · intro nonzero
    by_contra none
    push Not at none
    refine nonzero (BitVec.eq_of_getLsbD_eq fun k hk => ?_)
    have clear := none (7 - k) (by omega)
    rw [show 7 - (7 - k) = k by omega] at clear
    simpa using clear
  · rintro ⟨col, -, bit⟩ rfl
    simp at bit

/-- A sprite covers some pixel exactly when one of its rows has a 1 bit. -/
theorem exists_covers_iff (x y : Reg) (n : Nat) (s : State) :
    (∃ px < 64, ∃ py < 32, Covers x y n s px py) ↔ ∃ row < n, memRead s.mem (s.I.toNat + row) ≠ 0 := by
  simp only [byte_ne_zero_iff]
  constructor
  · rintro ⟨-, -, -, -, row, hrow, col, hcol, -, -, bit⟩
    exact ⟨row, hrow, col, hcol, bit⟩
  · rintro ⟨row, hrow, col, hcol, bit⟩
    exact ⟨_, Nat.mod_lt _ (by decide), _, Nat.mod_lt _ (by decide), row, hrow, col, hcol, rfl, rfl, bit⟩

/-! ## The instruction -/

/-- DRW is a write of the display and one result, a flag in `VF`. -/
theorem exec_drwVxVyN (x y : Reg) (n : Nat) (s : State) :
    let drawn := blit (s.readV x).toNat (s.readV y).toNat (loadBytes s.mem (dataAddr s 0) n) s.display
    exec (.drwVxVyN x y n) s = .next ((s.setDisplay drawn.1).result regF (flagByte drawn.2)) := rfl

/-- All that a DRW does: the pixels it flips, its collision, and its frame (R94, R96). -/
theorem draw_answers (x y : Reg) {n : Nat} (s : State) (bound : n ≤ 15) :
    ∃ t, exec (.drwVxVyN x y n) s = .next t ∧
      (∀ px < 64, ∀ py < 32, pixel t.display px py ≠ pixel s.display px py ↔ Covers x y n s px py) ∧
      (t.readV 15 = 1 ↔ ∃ px < 64, ∃ py < 32, Covers x y n s px py ∧ pixel s.display px py = true) ∧
      t.pc = s.pc + 2 ∧ SameRegsBut [15] s t ∧ OnlyDisplayRegsAndPc s t := by
  have flips_and_collides := blit_spec (s.readV x).toNat (s.readV y).toNat (loadBytes s.mem (dataAddr s 0) n) s.display
    (by rw [loadBytes_length]; omega)
  simp only [spriteCovers_iff] at flips_and_collides
  obtain ⟨flips, collides⟩ := flips_and_collides
  have executed := exec_drwVxVyN x y n s
  generalize blit (s.readV x).toNat (s.readV y).toNat (loadBytes s.mem (dataAddr s 0) n) s.display = drawn
    at flips collides executed
  refine ⟨_, executed, flips, ?_, rfl, LoadAlu.sameRegsBut_result (s.setDisplay drawn.1) regF _, ?_⟩
  · rw [← collides, ← flagByte_eq_one]
    exact (LoadAlu.result_readV_self (s.setDisplay drawn.1) regF _).congr_left
  · obtain ⟨index, -, mem, timers, background⟩ :=
      LoadAlu.onlyRegsAndPc_result (s.setDisplay drawn.1) regF (flagByte drawn.2)
    exact ⟨index, mem, timers, background⟩

/-- A pixel flipped by the second draw exactly when by the first is as it was at the beginning. -/
theorem eq_of_flipped_twice {before between after : Bool} (h : after ≠ between ↔ between ≠ before) :
    after = before := by
  by_cases kept : between = before
  · rw [not_not.mp (mt h.mp (not_not.mpr kept)), kept]
  · rw [Bool.eq_not.mpr (h.mpr kept), Bool.eq_not.mpr kept, Bool.not_not]

/-! ## The obligations -/

/-- Settles O36: the pixels and the frame of a DRW. -/
theorem drawFlipsCoveredPixels : Obligations.DrawFlipsCoveredPixels := by
  intro x y n s bound
  obtain ⟨t, executed, flips, -, pc, regs, frame⟩ := draw_answers x y s bound
  exact ⟨t, executed, flips, pc, regs, frame⟩

/-- Settles O37: the collision of a DRW, which it writes as a flag. -/
theorem drawCollision : Obligations.DrawCollision := by
  intro x y n s t bound h
  obtain ⟨u, executed, -, collides, -⟩ := draw_answers x y s bound
  cases executed.symm.trans h
  exact ⟨collides, Alu.flagWritersLeaveZeroOrOne _ s t rfl h⟩

/-- Settles O38: the second draw covers the pixels the first covered, so it flips each of them back, and each it meets
set is one the first met clear. -/
theorem drawTwiceRestores : Obligations.DrawTwiceRestores := by
  intro x y n s t u bound first same_x same_y second
  obtain ⟨t', first', flips, collides, -, -, index, mem, -⟩ := draw_answers x y s bound
  cases first'.symm.trans first
  obtain ⟨u', second', flips_back, collides_again, -⟩ := draw_answers x y t bound
  cases second'.symm.trans second
  simp only [covers_congr same_x same_y index mem] at flips_back collides_again
  have second_collides :
      u.readV 15 = 1 ↔ ∃ px < 64, ∃ py < 32, Covers x y n s px py ∧ pixel s.display px py = false := by
    rw [collides_again]
    refine exists_congr fun px => and_congr_right fun hx => exists_congr fun py => and_congr_right fun hy =>
      and_congr_right fun covered => ?_
    have flipped := (flips px hx py hy).mpr covered
    rw [Bool.eq_not.mpr flipped, Bool.not_eq_true']
  refine ⟨display_ext fun px hx py hy => ?_, second_collides, fun no_collision => ?_⟩
  · exact eq_of_flipped_twice ((flips_back px hx py hy).trans (flips px hx py hy).symm)
  · have all_clear : ∀ px < 64, ∀ py < 32, Covers x y n s px py → pixel s.display px py = false := by
      intro px hx py hy covered
      by_contra lit
      have collided := collides.mpr ⟨px, hx, py, hy, covered, Bool.eq_true_of_not_eq_false lit⟩
      rw [no_collision] at collided
      cases collided
    rw [second_collides, ← exists_covers_iff x y]
    exact exists_congr fun px => and_congr_right fun hx => exists_congr fun py => and_congr_right fun hy =>
      and_iff_left_of_imp (all_clear px hx py hy)

end Sys2Proof.Proofs.Draw
end

section
/-! Keypad and timer instructions (44_keypad_timers): the skips on a key, the key wait, the writes of the timers. -/

namespace Sys2Proof.Proofs.KeypadInstructions

open Sys2Proof.Machine Sys2Proof.Safety

/-! ## Keys -/

/-- The key wait captures the lowest key that is down (R102, D18). -/
theorem lowestKey_of_lowest {key : BitVec 16} {k : Nat} (bound : k < 16) (down : keyDown key k = true)
    (lowest : ∀ j < k, keyDown key j = false) : lowestKey key = some k := by
  cases captured : lowestKey key with
  | none => simp [(lowestKey_eq_none key).mp captured k bound] at down
  | some j =>
    obtain ⟨-, down_j, lowest_j⟩ := lowestKey_eq_some captured
    obtain lower | rfl | higher := lt_trichotomy j k
    · simp [lowest j lower] at down_j
    · rfl
    · simp [lowest_j k higher] at down

theorem exec_skpVx (x : Reg) (s : State) :
    exec (.skpVx x) s = .next (s.skipIf (keyDown s.key (lowNibble (s.readV x)))) := rfl

theorem exec_sknpVx (x : Reg) (s : State) :
    exec (.sknpVx x) s = .next (s.skipIf (!keyDown s.key (lowNibble (s.readV x)))) := rfl

/-- Settles O39: both instructions are skips, and their tests decide whether the key is down. -/
theorem keySkips : Obligations.KeySkips := by
  intro x s
  exact ⟨ControlFlow.skip_changes_only_pc (exec_skpVx x s) Iff.rfl,
    ControlFlow.skip_changes_only_pc (exec_sknpVx x s) (Bool.not_eq_true' _).to_iff⟩

/-- Settles O40: the two cases of the key wait; a captured key number fits into a byte. -/
theorem keyWait : Obligations.KeyWait := by
  intro x s
  refine ⟨fun none_down => execLdVxK_none ((lowestKey_eq_none s.key).mpr none_down) x, fun k bound down lowest => ?_⟩
  have captured := execLdVxK_some (lowestKey_of_lowest bound down lowest) x
  refine ⟨_, captured, ?_, rfl, LoadAlu.sameRegsBut_result s x _, LoadAlu.onlyRegsAndPc_result s x _⟩
  rw [LoadAlu.result_readV_self, BitVec.toNat_ofNat]
  omega

/-! ## Timers -/

/-- Settles O42: each instruction is one write of a timer and a step to the next one. -/
theorem setTimers : Obligations.SetTimers := by
  intro x s
  exact ⟨⟨_, rfl, rfl, rfl, rfl, fun _ => rfl, rfl, rfl, fun _ => rfl, rfl, rfl, rfl, rfl, rfl⟩,
    ⟨_, rfl, rfl, rfl, rfl, fun _ => rfl, rfl, rfl, fun _ => rfl, rfl, rfl, rfl, rfl, rfl⟩⟩

end Sys2Proof.Proofs.KeypadInstructions
end

section
/-! What no step can see (44_keypad_timers R107, 10_state R26, R17): from a state in which `ST`, `acc` and the
diagnostic output, or the dead slots of the call stack, are overwritten, a step goes to a state that differs only there. -/

namespace Sys2Proof.Proofs.Noninterference

open Sys2Proof.Machine Sys2Proof.Safety

/-- A step respects a relation that fetches, instructions and the decode error respect. -/
theorem step_respects {R : State → State → Prop} (mem : ∀ {s s'}, R s s' → s'.mem = s.mem)
    (pc : ∀ {s s'}, R s s' → s'.pc = s.pc)
    (execs : ∀ i {s s'}, R s s' → ∃ t t', exec i s = .next t ∧ exec i s' = .next t' ∧ R t t')
    (rejects : ∀ {s s'}, R s s' → R (Writers.afterReject s) (Writers.afterReject s')) {s s' t : State}
    (related : R s s') (h : step s = .next t) : ∃ t', step s' = .next t' ∧ R t t' := by
  have decode_eq : decode (fetch16 s'.mem s'.pc) = decode (fetch16 s.mem s.pc) := by rw [mem related, pc related]
  obtain ⟨i, fetched, executed⟩ | ⟨⟨e, rejected⟩, rfl⟩ := Writers.step_cases h
  · obtain ⟨u, t', executed_u, executed', related'⟩ := execs i related
    cases executed_u.symm.trans executed
    exact ⟨t', (Exceptions.step_of_decoded (decode_eq.trans fetched)).trans executed', related'⟩
  · exact ⟨_, Writers.step_afterReject (decode_eq.trans rejected), rejects related⟩

/-- A change of the state that commutes with every register write commutes with a range of them. -/
theorem writeRegs_comm {f : State → State} (comm : ∀ s r b, f (s.writeV r b) = (f s).writeV r b) (bs : List Byte)
    (r : Nat) (s : State) : (f s).writeRegs r bs = f (s.writeRegs r bs) := by
  induction bs generalizing r s with
  | nil => rfl
  | cons b bs ih => rw [State.writeRegs, State.writeRegs, ← comm, ih]

/-! ## `ST`, `acc` and the diagnostic output -/

/-- Every part of the state but `ST`, `acc` and the diagnostic output is the same. -/
structure AgreeButUnread (s t : State) : Prop where
  V : t.V = s.V
  I : t.I = s.I
  pc : t.pc = s.pc
  stack : t.stack = s.stack
  sp : t.sp = s.sp
  display : t.display = s.display
  key : t.key = s.key
  DT : t.DT = s.DT
  mem : t.mem = s.mem
  draws : t.draws = s.draws

theorem sameButUnread_iff (s t : State) : SameButUnread s t ↔ AgreeButUnread s t := by
  constructor
  · intro h
    simp only [SameButUnread, State.setST, State.setAcc, State.setDiag, State.mk.injEq] at h
    obtain ⟨V, I, pc, stack, sp, display, key, DT, -, -, mem, -, draws⟩ := h
    exact ⟨V.symm, I.symm, pc.symm, stack.symm, sp.symm, display.symm, key.symm, DT.symm, mem.symm, draws.symm⟩
  · rintro ⟨V, I, pc, stack, sp, display, key, DT, mem, draws⟩
    simp only [SameButUnread, State.setST, State.setAcc, State.setDiag, *]

/-- The state with what no instruction reads overwritten. -/
def overwriteUnread (st : Byte) (acc : Rat) (diag : List Diag) (s : State) : State :=
  { s with ST := st, acc := acc, diag := diag }

theorem AgreeButUnread.eq_overwriteUnread {s t : State} (h : AgreeButUnread s t) :
    t = overwriteUnread t.ST t.acc t.diag s := by
  obtain ⟨⟩ := s
  obtain ⟨⟩ := t
  obtain ⟨rfl, rfl, rfl, rfl, rfl, rfl, rfl, rfl, rfl, rfl⟩ := h
  rfl

theorem exec_overwriteUnread (i : Instr) (s : State) (st : Byte) (acc : Rat) (diag : List Diag) :
    ∃ t t', exec i s = .next t ∧ exec i (overwriteUnread st acc diag s) = .next t' ∧ AgreeButUnread t t' := by
  cases i with
  | ret =>
    by_cases empty : s.sp.val = 0
    · exact ⟨_, _, execRet_empty empty, execRet_empty (s := overwriteUnread st acc diag s) empty,
        by constructor <;> rfl⟩
    · exact ⟨_, _, execRet_pop empty, execRet_pop (s := overwriteUnread st acc diag s) empty,
        by constructor <;> rfl⟩
  | callNnn nnn =>
    by_cases full : s.sp.val = 16
    · exact ⟨_, _, execCallNnn_full full nnn, execCallNnn_full (s := overwriteUnread st acc diag s) full nnn,
        by constructor <;> rfl⟩
    · have room : s.sp.val < 16 := by omega
      exact ⟨_, _, execCallNnn_push room nnn, execCallNnn_push (s := overwriteUnread st acc diag s) room nnn,
        by constructor <;> rfl⟩
  | ldVxK x =>
    cases captured : lowestKey s.key with
    | none =>
      exact ⟨_, _, execLdVxK_none captured x, execLdVxK_none (s := overwriteUnread st acc diag s) captured x,
        by constructor <;> rfl⟩
    | some k =>
      exact ⟨_, _, execLdVxK_some captured x, execLdVxK_some (s := overwriteUnread st acc diag s) captured x,
        by constructor <;> rfl⟩
  | ldVxMemI x =>
    refine ⟨_, _, rfl, rfl, ?_⟩
    rw [writeRegs_comm (f := overwriteUnread st acc diag) (fun _ _ _ => rfl)]
    constructor <;> rfl
  | _ => exact ⟨_, _, rfl, rfl, by constructor <;> rfl⟩

theorem afterReject_agreeButUnread {s t : State} (h : AgreeButUnread s t) :
    AgreeButUnread (Writers.afterReject s) (Writers.afterReject t) := by
  rw [h.eq_overwriteUnread]
  constructor <;> rfl

/-- Settles O46: instruction by instruction, from the state overwritten. -/
theorem unreadStateIsInvisible : Obligations.UnreadStateIsInvisible := by
  intro s s' t
  simp only [sameButUnread_iff]
  refine step_respects AgreeButUnread.mem AgreeButUnread.pc (fun i s s' agree => ?_) afterReject_agreeButUnread
  rw [agree.eq_overwriteUnread]
  exact exec_overwriteUnread i s _ _ _

/-! ## Dead slots of the call stack -/

/-- Every part of the state but the call-stack slots at and above the depth is the same. -/
structure AgreeButDeadSlots (s t : State) : Prop where
  V : t.V = s.V
  I : t.I = s.I
  pc : t.pc = s.pc
  sp : t.sp = s.sp
  display : t.display = s.display
  key : t.key = s.key
  DT : t.DT = s.DT
  ST : t.ST = s.ST
  acc : t.acc = s.acc
  mem : t.mem = s.mem
  diag : t.diag = s.diag
  draws : t.draws = s.draws
  live : ∀ k : Fin 16, k.val < s.sp.val → s.stack.get k = t.stack.get k

theorem sameButDeadSlots_iff (s t : State) : SameButDeadSlots s t ↔ AgreeButDeadSlots s t := by
  constructor
  · rintro ⟨h, live⟩
    simp only [State.setStack, State.mk.injEq] at h
    obtain ⟨V, I, pc, -, sp, display, key, DT, ST, acc, mem, diag, draws⟩ := h
    exact ⟨V.symm, I.symm, pc.symm, sp.symm, display.symm, key.symm, DT.symm, ST.symm, acc.symm, mem.symm, diag.symm,
      draws.symm, live⟩
  · rintro ⟨V, I, pc, sp, display, key, DT, ST, acc, mem, diag, draws, live⟩
    exact ⟨by simp only [State.setStack, *], live⟩

theorem AgreeButDeadSlots.eq_setStack {s t : State} (h : AgreeButDeadSlots s t) : t = s.setStack t.stack := by
  obtain ⟨⟩ := s
  obtain ⟨⟩ := t
  obtain ⟨rfl, rfl, rfl, rfl, rfl, rfl, rfl, rfl, rfl, rfl, rfl, rfl, -⟩ := h
  rfl

section
variable {s : State} {st : Vector Word 16} (live : ∀ k : Fin 16, k.val < s.sp.val → s.stack.get k = st.get k)
include live

theorem agree_setStack {t : State} (stack : t.stack = s.stack) (sp : t.sp = s.sp) :
    AgreeButDeadSlots t (t.setStack st) := by
  constructor
  case live => rwa [sp, stack]
  all_goals rfl

theorem agree_result (x : Reg) (b : Byte) : AgreeButDeadSlots (s.result x b) ((s.setStack st).result x b) :=
  agree_setStack live (t := s.result x b) rfl rfl

theorem agree_reportAndSkip (d : Diag) : AgreeButDeadSlots (s.reportAndSkip d) ((s.setStack st).reportAndSkip d) := by
  constructor
  case live => exact live
  all_goals rfl

/-- A return reads the slot below the depth, which is live (10_state R17). -/
theorem agree_pop (nonempty : s.sp.val ≠ 0) :
    AgreeButDeadSlots (s.drop.setPc (s.top nonempty)) ((s.setStack st).drop.setPc ((s.setStack st).top nonempty)) := by
  constructor
  case pc => exact (live _ (Nat.sub_one_lt nonempty)).symm
  case live =>
    intro k below
    rw [State.setPc_sp, State.drop_sp] at below
    exact live k (by omega)
  all_goals rfl

/-- A call writes the slot at the depth, the one slot that becomes live. -/
theorem agree_push (room : s.sp.val < 16) (a b : Word) :
    AgreeButDeadSlots ((s.push a room).setPc b) (((s.setStack st).push a room).setPc b) := by
  constructor
  case live =>
    intro k below
    rw [State.setPc_sp, State.push_sp] at below
    have pushed : (((s.setStack st).push a room).setPc b).stack.get k = if k.val = s.sp.val then a else st.get k :=
      State.push_get (s.setStack st) a room k
    rw [pushed, State.setPc_stack, State.push_get]
    by_cases top : k.val = s.sp.val
    · rw [if_pos top, if_pos top]
    · rw [if_neg top, if_neg top]
      exact live k (by omega)
  all_goals rfl

theorem exec_setStack (i : Instr) :
    ∃ t t', exec i s = .next t ∧ exec i (s.setStack st) = .next t' ∧ AgreeButDeadSlots t t' := by
  cases i with
  | ret =>
    by_cases empty : s.sp.val = 0
    · exact ⟨_, _, execRet_empty empty, execRet_empty (s := s.setStack st) empty, agree_reportAndSkip live _⟩
    · exact ⟨_, _, execRet_pop empty, execRet_pop (s := s.setStack st) empty, agree_pop live empty⟩
  | callNnn nnn =>
    by_cases full : s.sp.val = 16
    · exact ⟨_, _, execCallNnn_full full nnn, execCallNnn_full (s := s.setStack st) full nnn,
        agree_reportAndSkip live _⟩
    · have room : s.sp.val < 16 := by omega
      exact ⟨_, _, execCallNnn_push room nnn, execCallNnn_push (s := s.setStack st) room nnn,
        agree_push live room _ _⟩
  | ldVxK x =>
    cases captured : lowestKey s.key with
    | none =>
      exact ⟨_, _, execLdVxK_none captured x, execLdVxK_none (s := s.setStack st) captured x,
        agree_setStack live rfl rfl⟩
    | some k =>
      exact ⟨_, _, execLdVxK_some captured x, execLdVxK_some (s := s.setStack st) captured x, agree_result live x _⟩
  | ldVxMemI x =>
    refine ⟨_, _, rfl, rfl, ?_⟩
    have stack (bs : List Byte) : (s.writeRegs 0 bs).stack = s.stack := by rw [State.writeRegs_eq]; rfl
    have sp (bs : List Byte) : (s.writeRegs 0 bs).sp = s.sp := by rw [State.writeRegs_eq]; rfl
    rw [writeRegs_comm (f := State.setStack st) (fun _ _ _ => rfl)]
    exact agree_setStack live (t := (s.writeRegs 0 _).nextInstr) (stack _) (sp _)
  | _ =>
    refine ⟨_, _, rfl, rfl, ?_⟩
    constructor
    case live => exact live
    all_goals rfl

end

theorem afterReject_agreeButDeadSlots {s t : State} (h : AgreeButDeadSlots s t) :
    AgreeButDeadSlots (Writers.afterReject s) (Writers.afterReject t) := by
  rw [h.eq_setStack]
  exact agree_reportAndSkip h.live _

/-- Settles O47: instruction by instruction; RET reads a live slot, and CALL makes live only the slot it writes. -/
theorem deadStackSlotsAreInvisible : Obligations.DeadStackSlotsAreInvisible := by
  intro s s' t
  simp only [sameButDeadSlots_iff]
  refine step_respects AgreeButDeadSlots.mem AgreeButDeadSlots.pc (fun i s s' agree => ?_)
    afterReject_agreeButDeadSlots
  rw [agree.eq_setStack]
  exact exec_setStack agree.live i

end Sys2Proof.Proofs.Noninterference
end
